-- ==== Sys2Proof/Word.lean ====
section
/-!
DEFINITION. The widths the spec fixes (00_scope.md R10, 10_state.md R20): the bit vectors of the LCD timing controller (LTC).
-/

namespace Sys2Proof

/-- A data nibble: four bits, the unit moved on the data bus per strobe (R10, R16). -/
abbrev Nibble := BitVec 4

/-- A command, a character code, a cursor coordinate, a byte of the string memory (R10). -/
abbrev Byte := BitVec 8

/-- A string-memory address or a post-delay operand in microseconds (R10). -/
abbrev Half := BitVec 16

/-- A request word (R10, R70). -/
abbrev Word := BitVec 32

end Sys2Proof
end

