-- ==== Sys2Proof/Syntax.lean ====
section
/-!
DEFINITION. The nine requests of the block, one constructor per row of spec/opcode_table.json (30_encoding.md R71, R73).
Each operand has exactly the width of its field, so every term stands for one legal request word.
-/

namespace Sys2Proof

/-- A legal request (30_encoding.md R71, R72, operands in the order of the syntax of R80). -/
inductive Instr where
  /-- `INIT_PINS` (40_pins_and_nibble.md R109). -/
  | initPins
  /-- `SEND_NIBBLE v, r` (R110); `r = false` is command mode, `r = true` data mode. -/
  | sendNibble (v : Byte) (r : Bool)
  /-- `SEND_CMD4 v, t` (41_command_send.md R131); `t` in microseconds. -/
  | sendCmd4 (v : Byte) (t : Half)
  /-- `SEND_CMD8 c, t` (R133); `t` in microseconds. -/
  | sendCmd8 (c : Byte) (t : Half)
  /-- `WRITE_CHAR h` (42_text_output.md R151). -/
  | writeChar (h : Byte)
  /-- `WRITE_STRING a` (R152); `a` is the address of the first byte. -/
  | writeString (a : Half)
  /-- `MOVE_CURSOR x, y` (R156); column, then row. -/
  | moveCursor (x y : Byte)
  /-- `INIT_PROCEDURE` (43_initialization.md R181). -/
  | initProcedure
  /-- `INIT` (R182). -/
  | init
  deriving DecidableEq, Repr

end Sys2Proof
end

