-- ==== Sys2Proof/Decode.lean ====
section
/-!
DEFINITION. The request decoder (30_encoding.md R70 to R79), total on every word and rejecting by name, and the encoder
written from the same tables.
-/

namespace Sys2Proof

/-- Why a word is illegal: the names of R74 and R75 (DESIGN CHOICE, log 16; the block records none of them, R201). -/
inductive IllegalWord where
  /-- R75: `RSV = w[27:24]` is not `0000`. -/
  | reservedField
  /-- R75: `ARG` has a 1 in a must-be-zero position of its `OP`. -/
  | reservedArgBit
  /-- R74: `OP` is `0x0` or `0xA` to `0xF`. -/
  | reservedOpcode
  deriving DecidableEq, Repr

/-- What the decoder answers: R77's `Legal(op, fields) | Illegal`. -/
inductive Decoded where
  | legal (i : Instr)
  | illegal (why : IllegalWord)
  deriving DecidableEq, Repr

/-- R70: `OP = w[31:28]`. -/
def opField (w : Word) : BitVec 4 := w.extractLsb' 28 4

/-- R70: `RSV = w[27:24]`. -/
def rsvField (w : Word) : BitVec 4 := w.extractLsb' 24 4

/-- R70: `ARG = w[23:0]`. -/
def argField (w : Word) : BitVec 24 := w.extractLsb' 0 24

/-- A request that is legal only if the must-be-zero bits `z` of its word are zero (R75). -/
def legalIfZero {n : Nat} (z : BitVec n) (i : Instr) : Decoded :=
  if z = 0#n then .legal i else .illegal .reservedArgBit

/-- R77: the decoder. -/
def decode (w : Word) : Decoded :=
  if rsvField w = 0#4 then
    match (opField w).toNat with
    | 0x1 => legalIfZero (w.extractLsb' 0 24) .initPins
    | 0x2 => legalIfZero (w.extractLsb' 9 15) (.sendNibble (w.extractLsb' 0 8) (w.getLsbD 8))
    | 0x3 => .legal (.sendCmd4 (w.extractLsb' 0 8) (w.extractLsb' 8 16))
    | 0x4 => .legal (.sendCmd8 (w.extractLsb' 0 8) (w.extractLsb' 8 16))
    | 0x5 => legalIfZero (w.extractLsb' 8 16) (.writeChar (w.extractLsb' 0 8))
    | 0x6 => legalIfZero (w.extractLsb' 16 8) (.writeString (w.extractLsb' 0 16))
    | 0x7 => legalIfZero (w.extractLsb' 16 8) (.moveCursor (w.extractLsb' 0 8) (w.extractLsb' 8 8))
    | 0x8 => legalIfZero (w.extractLsb' 0 24) .initProcedure
    | 0x9 => legalIfZero (w.extractLsb' 0 24) .init
    | _ => .illegal .reservedOpcode
  else .illegal .reservedField

/-- R73: the operation code of a request. -/
def opcode : Instr → BitVec 4
  | .initPins => 0x1
  | .sendNibble _ _ => 0x2
  | .sendCmd4 _ _ => 0x3
  | .sendCmd8 _ _ => 0x4
  | .writeChar _ => 0x5
  | .writeString _ => 0x6
  | .moveCursor _ _ => 0x7
  | .initProcedure => 0x8
  | .init => 0x9

/-- R71: the operand field of a request. -/
def operands : Instr → BitVec 24
  | .initPins => 0#24
  | .sendNibble v r => 0#15 ++ BitVec.ofBool r ++ v
  | .sendCmd4 v t => t ++ v
  | .sendCmd8 c t => t ++ c
  | .writeChar h => 0#16 ++ h
  | .writeString a => 0#8 ++ a
  | .moveCursor x y => 0#8 ++ y ++ x
  | .initProcedure => 0#24
  | .init => 0#24

/-- R70: the word of a request, `OP RSV ARG` with `RSV = 0000`. -/
def encode (i : Instr) : Word := opcode i ++ 0#4 ++ operands i

/-- The request of a decoder's answer, if it is legal. -/
def Decoded.instr? : Decoded → Option Instr
  | .legal i => some i
  | .illegal _ => none

/-- The instruction the decoder reads from an instruction of `nbits` bits `w`, bit 0 the least significant bit of the one
32-bit word (every request is 32 bits, R79; the word arrives on 32 parallel wires, R56). -/
def decodeTableWord (nbits w : Nat) : Option Instr :=
  (decode (BitVec.ofNat 32 (w % 2 ^ nbits))).instr?

end Sys2Proof
end

