-- ==== Sys2Proof/Machine/State.lean ====
section
/-!
DEFINITION. The state of the machine as plain data (10_state.md R20: the block's registers are exactly these), the string
memory and the wires of the coming edges (00_scope.md R17), the observation of a run (R19), and the state after reset (R38).
-/

namespace Sys2Proof.Machine

/-- A micro-op, one internal step of the sequencer (40_pins_and_nibble.md R100). -/
inductive MicroOp where
  | pins
  | setD (n : Nibble)
  | setRs (b : Bool)
  | eHi
  | eLo
  /-- `WAIT c`: `c` is the remaining number of edges (10_state.md R30, 60_exceptions.md R216). -/
  | wait (c : Nat)
  | rdIssue
  | rdCap
  deriving DecidableEq, Repr

/-- The two error causes (60_exceptions.md R201, R202). -/
inductive ErrorCause where
  | illegalRequest
  | transferBeforePinConfig
  deriving DecidableEq, Repr

/-- What the world outside the block does at one rising edge of `clk` (DESIGN CHOICE, log 1): the levels of `rst`, `req_valid` and `req_word`
(60_exceptions.md R220), and the bytes other agents write to the string memory (20_memory.md R55), in order. -/
structure Edge where
  rst : Bool
  reqValid : Bool
  reqWord : Word
  memWrites : List (Half × Byte)
  deriving DecidableEq, Repr

/-- A latch event (40_pins_and_nibble.md R107): RS, the nibble, and the number of the edge. -/
structure LatchEvent where
  rs : Bool
  d : Nibble
  edge : Nat
  deriving DecidableEq, Repr

/-- A string-memory read as the observation records it (00_scope.md R19): its address, the byte sampled, and the number of its
`RDCAP` edge, at which 20_memory.md R60 says it is performed. -/
structure ReadEvent where
  addr : Half
  byte : Byte
  edge : Nat
  deriving DecidableEq, Repr

/-- The string memory (20_memory.md R50): (address, byte) pairs, addresses strictly rising. -/
abbrev Memory := List Host.Cell

/-- The complete state. The first fifteen fields are the record of 10_state.md R20. -/
structure State where
  /-- R22: an operation is executing. -/
  busy : Bool
  /-- R23: the six LCD lines are configured as outputs. -/
  pinsCfg : Bool
  /-- R24: output register of the data nibble. -/
  dQ : Nibble
  /-- R25: output register of RS. -/
  rsQ : Bool
  /-- R26: output register of E. -/
  eQ : Bool
  /-- R28: sticky, an illegal request was seen. -/
  errIllegal : Bool
  /-- R29: sticky, a transfer was requested before pin configuration. -/
  errNopins : Bool
  /-- R21: opcode of the request being executed. -/
  rqOp : BitVec 4
  /-- R21: operand field of the request being executed. -/
  rqArg : BitVec 24
  /-- R30: the micro-ops still to execute, head first. -/
  seq : List MicroOp
  /-- R31: start address of the current string write. -/
  strBase : Half
  /-- R31: characters of the current string sent so far; a number without a width (DEDUCED, log 17). -/
  strIdx : Nat
  /-- R31: last byte read from the string memory. -/
  strByte : Byte
  /-- R32: string-memory address register. -/
  memAddrQ : Half
  /-- R32: string-memory read strobe register. -/
  memRdQ : Bool
  /-- The contents of the string memory that are known (20_memory.md R50; DESIGN CHOICE, log 2). -/
  mem : Memory
  /-- The world outside at the coming edges, the next one first (DESIGN CHOICE, log 1). -/
  inputs : List Edge
  /-- The model's own: what other agents have overwritten since the edge that accepted the running operation, newest first;
  `none` stands for contents that were not known (20_memory.md R55, R60; DESIGN CHOICE, log 3). -/
  overwritten : List (Half × Option Byte)
  /-- The model's own: how many string-memory answers were taken so far (DESIGN CHOICE, log 4). -/
  draws : Nat
  /-- The model's own: the number of the next edge (DESIGN CHOICE, log 5). -/
  cycle : Nat
  /-- The observation (00_scope.md R19): the latch events so far, oldest first (DESIGN CHOICE, log 5). -/
  latches : List LatchEvent
  /-- The observation (R19): the string-memory reads so far, oldest first (DESIGN CHOICE, log 5). -/
  reads : List ReadEvent
  deriving DecidableEq, Repr

/-- Why the machine stops. -/
inductive Fault where
  /-- Raised by the sequencer in a state with `busy = 1` and `seq = []`, which R101 says no edge leaves: the spec gives such a
  state no next one (DEDUCED, log 8). Safe: the machine stops where the spec says nothing. -/
  | busyWithEmptySeq
  deriving DecidableEq, Repr

/-- Why an instruction has no meaning. -/
inductive Refusal where
  /-- Raised by an arm of `exec` for an instruction without a meaning; no arm does so here. Safe: nothing follows. -/
  | notModelled (mnemonic : String)
  deriving DecidableEq, Repr

/-- An edge at which the host and the other agents are silent. -/
def Edge.idle : Edge := { rst := false, reqValid := false, reqWord := 0#32, memWrites := [] }

/-- The state after reset: the registers as 10_state.md R38 gives them, no known memory contents (DESIGN CHOICE, log 2), a silent host
(DESIGN CHOICE, log 1), an empty observation (DESIGN CHOICE, log 5), the other fields empty or 0 (DESIGN CHOICE, log 12). Every run
starts here (DEDUCED, log 11). -/
def State.reset : State where
  busy := false
  pinsCfg := false
  dQ := 0x0#4
  rsQ := false
  eQ := false
  errIllegal := false
  errNopins := false
  rqOp := 0x0#4
  rqArg := 0x000000#24
  seq := []
  strBase := 0x0000#16
  strIdx := 0
  strByte := 0x00#8
  memAddrQ := 0x0000#16
  memRdQ := false
  mem := []
  inputs := []
  overwritten := []
  draws := 0
  cycle := 0
  latches := []
  reads := []

end Sys2Proof.Machine
end

