-- ==== Sys2Proof/Machine/Memory.lean ====
section
/-!
DEFINITION. The string memory as data (20_memory.md R50, R58): read of a byte, write of a byte by another agent, and the
canonical form. An address that is not listed has no known contents (DESIGN CHOICE, log 2).
-/

namespace Sys2Proof.Machine

/-- The known contents of one byte; `none` where the model knows none. -/
def Memory.byteAt? : Memory → Nat → Option Byte
  | [], _ => none
  | (b, v) :: m, a => if a = b then some v else Memory.byteAt? m a

/-- Another agent's write of one byte, which keeps the canonical form. -/
def Memory.write : Memory → Nat → Byte → Memory
  | [], a, v => [(a, v)]
  | (b, w) :: m, a, v =>
    if a < b then (a, v) :: (b, w) :: m
    else if a = b then (a, v) :: m
    else (b, w) :: Memory.write m a v

/-- Every listed address is at least `lo` and below 2^16, and the addresses rise strictly. -/
def Memory.risesFrom : Nat → Memory → Bool
  | _, [] => true
  | lo, (b, _) :: m => decide (lo ≤ b) && decide (b < 2 ^ 16) && Memory.risesFrom (b + 1) m

/-- The canonical form: addresses of the 2^16-byte space (R50), strictly rising. An unlisted byte reads as no value, so no
listed byte can repeat it. -/
def Memory.wf (m : Memory) : Bool := Memory.risesFrom 0 m

end Sys2Proof.Machine
end

