-- ==== Sys2Proof/Config.lean ====
section
/-!
DEFINITION. The implementation parameters (00_scope.md R8, R9, R11, R18) and the free values. The operations of the machine
take the parameters as an argument (`Params`), as R8 asks; `Config.hw` are this hardware's: the source's values, with the
three OPEN ones left free. A constant declared opaque has no value a proof can use.
-/

namespace Sys2Proof

/-- The parameters of R8 (times in microseconds) and R9. -/
structure Params where
  /-- `CLK_PER_US`: clock cycles per microsecond. -/
  clkPerUs : Nat
  /-- `STROBE_US`: enable-high hold. -/
  strobeUs : Nat
  /-- `CHAR_SETTLE_US`: delay after a character write. -/
  charSettleUs : Nat
  /-- `CURSOR_DELAY_US`: post-delay of a cursor move. -/
  cursorDelayUs : Nat
  /-- `T_POWER_US`: wait of initialization step 1. -/
  tPowerUs : Nat
  /-- `T_INIT1_US`: wait of step 2. -/
  tInit1Us : Nat
  /-- `T_INIT2_US`: wait of step 3. -/
  tInit2Us : Nat
  /-- `T_CMD_US`: wait of steps 4, 5, 6, 8, 9. -/
  tCmdUs : Nat
  /-- `T_CLEAR_US`: wait of step 7. -/
  tClearUs : Nat
  /-- `COLUMNS`: columns per display row used by the cursor address. -/
  columns : Nat
  /-- `STRING_CAP`: maximum characters one string write sends. -/
  stringCap : Nat
  /-- `E_BIT`: bit of the control port that carries E. -/
  eBit : Fin 8
  /-- `RS_BIT`: bit of the control port that carries RS. -/
  rsBit : Fin 8
  deriving DecidableEq, Repr

/-- The constraints R8 and R9 put on the parameters. -/
abbrev Params.Legal (p : Params) : Prop :=
  1 ≤ p.clkPerUs ∧ 1 ≤ p.strobeUs ∧ 1 ≤ p.columns ∧ 1 ≤ p.stringCap ∧ p.rsBit ≠ p.eBit

/-- R11: `S = STROBE_US * K`, the cycles of the strobe wait. -/
def Params.strobeCycles (p : Params) : Nat := p.strobeUs * p.clkPerUs

/-- R11: `N = 4 + S`, the cycles of one nibble transfer. -/
def Params.nibbleCycles (p : Params) : Nat := 4 + p.strobeCycles

/-- R11: `cyc(t) = t * K`, the cycles of a wait of `t` microseconds. -/
def Params.cyc (p : Params) (t : Nat) : Nat := t * p.clkPerUs

/-- 42_text_output.md R154: `C = 2 + 2N + CHAR_SETTLE_US * K`, the cycles of one read and one character. -/
def Params.charCycles (p : Params) : Nat := 2 + 2 * p.nibbleCycles + p.cyc p.charSettleUs

/-- 43_initialization.md R184: `W`, the microseconds the initialization sequence waits in total. -/
def Params.initWaitUs (p : Params) : Nat :=
  p.tPowerUs + p.tInit1Us + p.tInit2Us + 5 * p.tCmdUs + p.tClearUs

/-- 10_state.md R30: the largest count the wait counter must hold. -/
def Params.counterMax (p : Params) : Nat :=
  ([p.tPowerUs, p.tInit1Us, p.tInit2Us, p.tCmdUs, p.tClearUs, p.strobeUs, p.charSettleUs, p.cursorDelayUs].foldl
    max 65535) * p.clkPerUs

/-- R2 (decision D1): the identity string. -/
def Config.identity : String := "LTC (Dyjiro/AVR-LCD-Screen-Demo, spec v7)"

/-- `CLK_PER_US`, OPEN, an integer ≥ 1 (R8; DESIGN CHOICE, log 6; safe: nothing constrains it further). -/
opaque Config.clkPerUsOpen : PNat

/-- `CLK_PER_US` as a natural number. -/
def Config.clkPerUs : Nat := Config.clkPerUsOpen.val

/-- `E_BIT`, OPEN, 0..7 (R9; DESIGN CHOICE, log 6). -/
opaque Config.eBit : Fin 8

/-- Which of the seven bits other than `E_BIT` carries RS, counted upward (DESIGN CHOICE, log 6). -/
opaque Config.rsBitAmongOthers : Fin 7

/-- `RS_BIT`, OPEN, 0..7, different from `E_BIT` (R9; DESIGN CHOICE, log 6). -/
def Config.rsBit : Fin 8 :=
  if Config.rsBitAmongOthers.val < Config.eBit.val then Config.rsBitAmongOthers.castSucc
  else Config.rsBitAmongOthers.succ

/-- The free value of the `n`-th string-memory answer where the model knows no contents: "whatever the memory returns"
(20_memory.md R55; DESIGN CHOICE, log 2, log 4; safe). -/
opaque Config.memoryAnswer : Nat → Byte

/-- The free choice of the `n`-th answer among the values a byte had since the string write was accepted
(20_memory.md R55, decision D23; DESIGN CHOICE, log 3; safe). -/
opaque Config.raceChoice : Nat → Nat

/-- This hardware's parameters: the source's values (R8, R9) and the OPEN ones. -/
def Config.hw : Params where
  clkPerUs := Config.clkPerUs
  strobeUs := 1
  charSettleUs := 50
  cursorDelayUs := 50
  tPowerUs := 15000
  tInit1Us := 4100
  tInit2Us := 100
  tCmdUs := 45
  tClearUs := 1700
  columns := 16
  stringCap := 100
  eBit := Config.eBit
  rsBit := Config.rsBit

/-- 70_reset_and_hazards.md R237, a duty of the platform: `CLK_PER_US ≥ ceil(f_clk_max / 1 MHz)`, with the clock's highest
frequency in hertz. -/
abbrev Params.clockOk (p : Params) (fClkMaxHz : Nat) : Prop := fClkMaxHz ≤ p.clkPerUs * 1000000

end Sys2Proof
end

