-- ==== Sys2Proof/Machine/Flags.lean ====
section
/-!
DEFINITION. The status vector and the request port's output (10_state.md R33, R34), and the error causes' codes and bits
(60_exceptions.md R201, R202). The block has no other flags (R36).
-/

namespace Sys2Proof.Machine

/-- The inputs at the next edge; past the end of the list the world outside is silent (DESIGN CHOICE, log 1). -/
def State.edge (s : State) : Edge := s.inputs.headD Edge.idle

/-- R33: `status[7:0]`, bit 0 `BUSY`, 1 `PINS_CFG`, 2 `ERR_ILLEGAL`, 3 `ERR_NOPINS`, bits 7 to 4 hardwired 0. -/
def State.status (s : State) : Byte :=
  0#4 ++ BitVec.ofBool s.errNopins ++ BitVec.ofBool s.errIllegal ++ BitVec.ofBool s.pinsCfg ++ BitVec.ofBool s.busy

/-- R34: `req_ready = (busy = 0) and (rst = 0)`, with the level of `rst` at the next edge
(DESIGN CHOICE, log 1: the form of the wires). -/
def State.reqReady (s : State) : Bool := !s.busy && !s.edge.rst

/-- The cause's code (R201, R202). -/
def ErrorCause.code : ErrorCause → Nat
  | .illegalRequest => 1
  | .transferBeforePinConfig => 2

/-- The cause's bit of the status vector (R201, R202). -/
def ErrorCause.statusBit : ErrorCause → Nat
  | .illegalRequest => 2
  | .transferBeforePinConfig => 3

/-- R245: a run ends well if `status[3:2] = 00`, no error recorded. -/
def State.noError (s : State) : Bool := s.status.extractLsb' 2 2 == 0#2

end Sys2Proof.Machine
end

