-- ==== Sys2Proof/Machine/Operands.lean ====
section
/-!
DEFINITION. What the operations compute from their operands: the nibbles of a byte (00_scope.md R13), the RS level of a
single nibble (30_encoding.md R72), the cursor command (42_text_output.md R156), the string's addresses (20_memory.md R53).
-/

namespace Sys2Proof.Machine

/-- R13: `hi(b) = b[7:4]`. -/
def hi (b : Byte) : Nibble := b.extractLsb' 4 4

/-- R13: `lo(b) = b[3:0]`. -/
def lo (b : Byte) : Nibble := b.extractLsb' 0 4

/-- R72: the RS level of the source's `asCommand` argument, `r = (asCommand ? 0 : 1)`. -/
def rsOfAsCommand (asCommand : Bool) : Bool := if asCommand then false else true

/-- R156: `cursor_addr(x, y) = y * COLUMNS + x`, a natural number. -/
def cursorAddr (p : Params) (x y : Byte) : Nat := y.toNat * p.columns + x.toNat

/-- R156: `cursor_cmd(x, y) = trunc_8(0x80 | cursor_addr(x, y))`. -/
def cursorCmd (p : Params) (x y : Byte) : Byte := BitVec.ofNat 8 (0x80 ||| cursorAddr p x y)

/-- R53: byte `i` of the string starting at `base` is read at `(base + i) mod 2^16`. -/
def stringAddr (base : Half) (i : Nat) : Half := BitVec.ofNat 16 (base.toNat + i)

end Sys2Proof.Machine
end

