-- ==== Sys2Proof/Machine/MicroOps.lean ====
section
/-!
DEFINITION. The micro-op lists the operations are made of (00_scope.md R15) and the edges they take (40_pins_and_nibble.md
R100, R103). Every list takes the parameters as an argument (R8).
-/

namespace Sys2Proof.Machine

/-- R102: the wait of `t` microseconds. -/
def dly (p : Params) (t : Nat) : List MicroOp :=
  if t * p.clkPerUs = 0 then [] else [.wait (t * p.clkPerUs)]

/-- R104: one nibble transfer, data, RS, E high, wait, E low. -/
def nib (p : Params) (n : Nibble) (r : Bool) : List MicroOp :=
  [.setD n, .setRs r, .eHi] ++ dly p p.strobeUs ++ [.eLo]

/-- 41_command_send.md R130: a four-bit command send with a post-delay of `t` microseconds. -/
def cmd4 (p : Params) (v : Byte) (t : Nat) : List MicroOp :=
  nib p (lo v) false ++ dly p t

/-- R132: an eight-bit command send, high nibble first. -/
def cmd8 (p : Params) (c : Byte) (t : Nat) : List MicroOp :=
  nib p (hi c) false ++ nib p (lo c) false ++ dly p t

/-- 42_text_output.md R150: a character write. -/
def chr (p : Params) (h : Byte) : List MicroOp :=
  nib p (hi h) true ++ nib p (lo h) true ++ dly p p.charSettleUs

/-- R152: the read of one byte of the string. -/
def readByte : List MicroOp := [.rdIssue, .rdCap]

/-- 43_initialization.md R180: the initialization sequence, one wait and eight command sends. -/
def initSeq (p : Params) : List MicroOp :=
  dly p p.tPowerUs ++
  cmd4 p 0x03#8 p.tInit1Us ++ cmd4 p 0x03#8 p.tInit2Us ++
  cmd8 p 0x32#8 p.tCmdUs ++ cmd8 p 0x28#8 p.tCmdUs ++ cmd8 p 0x08#8 p.tCmdUs ++
  cmd8 p 0x01#8 p.tClearUs ++ cmd8 p 0x06#8 p.tCmdUs ++ cmd8 p 0x0F#8 p.tCmdUs

/-- R100: the edges a micro-op takes. -/
def MicroOp.edges : MicroOp → Nat
  | .wait c => c
  | _ => 1

/-- R103: the edges a list takes in total. -/
def totalEdges : List MicroOp → Nat
  | [] => 0
  | m :: ms => m.edges + totalEdges ms

end Sys2Proof.Machine
end

