-- ==== Sys2Proof/Machine/Ops.lean ====
section
/-!
DEFINITION. The shared operations on the state: raising an error (the block's only exception, 60_exceptions.md R200, R206),
accepting a request (40_pins_and_nibble.md R108), the reset edge (70_reset_and_hazards.md R230), the other agents' writes and
the answer of the string memory (20_memory.md R51, R55, R60), and the passing of an edge.
-/

namespace Sys2Proof.Machine

/-- R200: `raise Error(cause)` sets the cause's sticky bit and does nothing else: no state is saved and control does not
change (R206), so there is nothing to return to (R207). -/
def raiseError : ErrorCause → State → State
  | .illegalRequest, s => { s with errIllegal := true }
  | .transferBeforePinConfig, s => { s with errNopins := true }

/-- R202: the transfer requests raise `TRANSFER_BEFORE_PIN_CONFIG` while `pins_cfg = 0`. -/
def checkPins (s : State) : State :=
  if s.pinsCfg then s else raiseError .transferBeforePinConfig s

/-- R108: what accepting the legal request `i` with micro-op list `ms` does: the request latch takes `w[31:28]` and `w[23:0]`
of its word (R21), `seq <- ms`, `busy <- 1`. No micro-op runs at this edge. -/
def startOp (i : Instr) (ms : List MicroOp) (s : State) : State :=
  { s with rqOp := opField (encode i), rqArg := argField (encode i), seq := ms, busy := true }

/-- R108: `str_base <- a`, `str_idx <- 0`, at the acceptance of a string write. -/
def startString (a : Half) (s : State) : State := { s with strBase := a, strIdx := 0 }

/-- R230: the reset edge gives every register of R20 its value of R38. The memory, the wires and the observation are not
registers of the block and stay (DESIGN CHOICE, log 5). A strobe that is cut off emits nothing (DEDUCED, log 14). -/
def resetBlock (s : State) : State :=
  { State.reset with
    mem := s.mem, inputs := s.inputs, draws := s.draws, cycle := s.cycle, latches := s.latches, reads := s.reads }

/-- One byte another agent writes (R55): the memory takes it, and the value it replaces is remembered (DESIGN CHOICE, log 3). -/
def writeByAgent (s : State) (w : Half × Byte) : State :=
  { s with
    mem := s.mem.write w.1.toNat w.2
    overwritten := (w.1, s.mem.byteAt? w.1.toNat) :: s.overwritten }

/-- R55, R60: what the other agents do to the string memory at the edge `e`. While no operation runs nothing is remembered,
so that a running operation's record begins with the writes of its accepting edge: the writes completed before that edge are
settled (R60 (1)). -/
def agentWrites (e : Edge) (s : State) : State :=
  e.memWrites.foldl writeByAgent { s with overwritten := if s.busy then s.overwritten else [] }

/-- The values the byte at `mem_addr` may be answered with (R55): its contents, then what other agents replaced there since
the running operation was accepted; `none` is contents the model does not know. -/
def State.answers (s : State) : List (Option Byte) :=
  s.mem.byteAt? s.memAddrQ.toNat :: (s.overwritten.filter fun w => w.1 == s.memAddrQ).map (·.2)

/-- R55: which of the answers the memory gives: the contents where no other agent wrote, else a free choice (DESIGN CHOICE, log 3). -/
def State.answer (s : State) : Option Byte :=
  match s.answers with
  | [b] => b
  | bs => (bs[Config.raceChoice s.draws % bs.length]?).getD none

/-- R51: `mem_rdata` at an edge. With `mem_rd = 1` it is the byte at `mem_addr`; where the model knows no contents, and while
`mem_rd = 0`, it is a free value (DESIGN CHOICE, log 2 and log 4). -/
def State.memRdata (s : State) : Byte :=
  if s.memRdQ then s.answer.getD (Config.memoryAnswer s.draws) else Config.memoryAnswer s.draws

/-- The edge has passed: its wires are used up, the next edge has the next number (DESIGN CHOICE, log 1 and log 5). -/
def passEdge (s : State) : State := { s with inputs := s.inputs.tail, cycle := s.cycle + 1 }

/-- The host presents the word `w` at the next edge, with `rst = 0` and the block idle (for `State.withFetchWord`; DESIGN CHOICE, log 10). -/
def present (w : Word) (s : State) : State :=
  { s with
    busy := false
    seq := []
    inputs := { s.edge with rst := false, reqValid := true, reqWord := w } :: s.inputs.tail }

end Sys2Proof.Machine
end

