-- ==== Sys2Proof/Machine/Command.lean ====
section
/-!
DEFINITION. The meanings of SEND_CMD4 and SEND_CMD8 (41_command_send.md R131, R133).
-/

namespace Sys2Proof.Machine

/-- R131: `SEND_CMD4 v, t`: the nibble `v[3:0]` in command mode, then `t` microseconds. -/
def execSendCmd4 (v : Byte) (t : Half) (s : State) : Host.Outcome State Fault Refusal :=
  .next (startOp (.sendCmd4 v t) (cmd4 Config.hw v t.toNat) (checkPins s))

/-- R133: `SEND_CMD8 c, t`: the high then the low nibble of `c` in command mode, then `t` microseconds. -/
def execSendCmd8 (c : Byte) (t : Half) (s : State) : Host.Outcome State Fault Refusal :=
  .next (startOp (.sendCmd8 c t) (cmd8 Config.hw c t.toNat) (checkPins s))

end Sys2Proof.Machine
end

