-- ==== Sys2Proof/Machine/Initialization.lean ====
section
/-!
DEFINITION. The meanings of INIT_PROCEDURE and INIT (43_initialization.md R181, R182).
-/

namespace Sys2Proof.Machine

/-- R181: `INIT_PROCEDURE`: the initialization sequence. The pins are not configured by it. -/
def execInitProcedure (s : State) : Host.Outcome State Fault Refusal :=
  .next (startOp .initProcedure (initSeq Config.hw) (checkPins s))

/-- R182: `INIT`: the pins, then the initialization sequence, in one request. It raises no error. -/
def execInit (s : State) : Host.Outcome State Fault Refusal :=
  .next (startOp .init (.pins :: initSeq Config.hw) s)

end Sys2Proof.Machine
end

