-- ==== Sys2Proof/Machine/Pins.lean ====
section
/-!
DEFINITION. The meanings of INIT_PINS and SEND_NIBBLE (40_pins_and_nibble.md R109, R110): what accepting each does. The
operation then runs edge by edge in the sequencer.
-/

namespace Sys2Proof.Machine

/-- R109: `INIT_PINS`. It never raises `TRANSFER_BEFORE_PIN_CONFIG`; a second one is legal and changes no line. -/
def execInitPins (s : State) : Host.Outcome State Fault Refusal :=
  .next (startOp .initPins [.pins] s)

/-- R110: `SEND_NIBBLE v, r`: one nibble transfer of `v[3:0]` with RS level `r`, no post-delay. -/
def execSendNibble (v : Byte) (r : Bool) (s : State) : Host.Outcome State Fault Refusal :=
  .next (startOp (.sendNibble v r) (nib Config.hw (lo v) r) (checkPins s))

end Sys2Proof.Machine
end

