-- ==== Sys2Proof/Machine/Text.lean ====
section
/-!
DEFINITION. The meanings of WRITE_CHAR, WRITE_STRING and MOVE_CURSOR (42_text_output.md R151, R152, R156).
-/

namespace Sys2Proof.Machine

/-- R151: `WRITE_CHAR h`: the high then the low nibble of `h` in data mode, then the settle delay. -/
def execWriteChar (h : Byte) (s : State) : Host.Outcome State Fault Refusal :=
  .next (startOp (.writeChar h) (chr Config.hw h) (checkPins s))

/-- R152: `WRITE_STRING a`: the string engine is set to the start of the string and the first byte is read; each `RDCAP` edge
continues the operation (`stringRest`). The pin check is made even if the string turns out to be empty. -/
def execWriteString (a : Half) (s : State) : Host.Outcome State Fault Refusal :=
  .next (startOp (.writeString a) readByte (startString a (checkPins s)))

/-- R156: `MOVE_CURSOR x, y`: the cursor command as an eight-bit command send with the cursor post-delay; no bounds are
checked. -/
def execMoveCursor (x y : Byte) (s : State) : Host.Outcome State Fault Refusal :=
  .next (startOp (.moveCursor x y) (cmd8 Config.hw (cursorCmd Config.hw x y) Config.hw.cursorDelayUs) (checkPins s))

end Sys2Proof.Machine
end

