-- ==== Sys2Proof/Machine/Dispatch.lean ====
section
/-!
DEFINITION. One arm per instruction: what accepting it does (40_pins_and_nibble.md R108).
-/

namespace Sys2Proof.Machine

-- The accepting edge of a legal request; step calls it with rst = 0, busy = 0 and req_valid = 1
-- (DEDUCED, log 9).
def exec (i : Instr) (s : State) : Host.Outcome State Fault Refusal :=
  match i with
  | .initPins => Sys2Proof.Machine.execInitPins s
  | .sendNibble v r => Sys2Proof.Machine.execSendNibble v r s
  | .sendCmd4 v t => Sys2Proof.Machine.execSendCmd4 v t s
  | .sendCmd8 c t => Sys2Proof.Machine.execSendCmd8 c t s
  | .writeChar h => Sys2Proof.Machine.execWriteChar h s
  | .writeString a => Sys2Proof.Machine.execWriteString a s
  | .moveCursor x y => Sys2Proof.Machine.execMoveCursor x y s
  | .initProcedure => Sys2Proof.Machine.execInitProcedure s
  | .init => Sys2Proof.Machine.execInit s

end Sys2Proof.Machine
end

