-- ==== Sys2Proof/Machine/Sequencer.lean ====
section
/-!
DEFINITION. The sequencer: the effect of each micro-op (40_pins_and_nibble.md R100), the string write's continuation
(42_text_output.md R152) and the edge of a running operation (R101, R103).
-/

namespace Sys2Proof.Machine

/-- R107: at an `ELO` edge with `pins_cfg = 1` one nibble is latched, stamped with the edge's number; on undriven lines
nothing is observed. -/
def emitLatch (s : State) : State :=
  if s.pinsCfg then { s with latches := s.latches ++ [{ rs := s.rsQ, d := s.dQ, edge := s.cycle }] } else s

/-- R152: what follows the byte `b` read: nothing after the terminator, else the character and, below the cap, the next
read. Nothing of the old list stays (DEDUCED, log 7). -/
def stringRest (p : Params) (b : Byte) (idx : Nat) : List MicroOp :=
  if b = 0x00#8 then [] else chr p b ++ (if idx + 1 = p.stringCap then [] else readByte)

/-- R52, R152: the `RDCAP` edge with the byte `b` on `mem_rdata`. The observation records the read if one was issued. -/
def capture (p : Params) (b : Byte) (s : State) : State :=
  { s with
    strByte := b
    memRdQ := false
    strIdx := if b = 0x00#8 then s.strIdx else s.strIdx + 1
    seq := stringRest p b s.strIdx
    draws := s.draws + 1
    reads := if s.memRdQ then s.reads ++ [{ addr := s.memAddrQ, byte := b, edge := s.cycle }] else s.reads }

/-- R100, R101: one edge of the micro-op `m` at the head of `seq`, with `rest` behind it. -/
def microEdge (p : Params) (m : MicroOp) (rest : List MicroOp) (s : State) : State :=
  match m with
  | .pins => { s with pinsCfg := true, seq := rest }
  | .setD n => { s with dQ := n, seq := rest }
  | .setRs b => { s with rsQ := b, seq := rest }
  | .eHi => { s with eQ := true, seq := rest }
  | .eLo => { emitLatch s with eQ := false, seq := rest }
  | .wait c => { s with seq := if 1 < c then .wait (c - 1) :: rest else rest }
  | .rdIssue => { s with memAddrQ := stringAddr s.strBase s.strIdx, memRdQ := true, seq := rest }
  | .rdCap => capture p s.memRdata s

/-- R101, R103: `if rest' = [] then busy <- 0`. -/
def settle (s : State) : State := if s.seq = [] then { s with busy := false } else s

/-- R101: the edge of a running operation. An empty `seq` while busy is a state no edge leaves (DEDUCED, log 8). -/
def runEdge (p : Params) (s : State) : Host.Outcome State Fault Refusal :=
  match s.seq with
  | [] => .fault .busyWithEmptySeq
  | m :: rest => .next (settle (microEdge p m rest s))

end Sys2Proof.Machine
end

