-- ==== Sys2Proof/Machine/Step.lean ====
section
/-!
DEFINITION. One rising edge of `clk` (40_pins_and_nibble.md R101, R108; 70_reset_and_hazards.md R230).
-/

namespace Sys2Proof.Machine

/-- R108: accepting the word `w`. An illegal word is consumed and only its error is raised (60_exceptions.md R201). -/
def accept (w : Word) (s : State) : Host.Outcome State Fault Refusal :=
  match decode w with
  | .illegal _ => .next (raiseError .illegalRequest s)
  | .legal i => exec i s

/-- What the block does at the edge `e`: reset before all else (R204, R230), then the running operation, then a request;
otherwise nothing (R101). -/
def blockEdge (e : Edge) (s : State) : Host.Outcome State Fault Refusal :=
  if e.rst then .next (resetBlock s)
  else if s.busy then runEdge Config.hw s
  else if e.reqValid then accept e.reqWord s
  else .next s

/-- The edge has passed, if the machine goes on. -/
def endEdge : Host.Outcome State Fault Refusal → Host.Outcome State Fault Refusal
  | .next s => .next (passEdge s)
  | .fault r => .fault r
  | .refused r => .refused r

/-- One rising edge of `clk`, with the wires the state holds for it. Nothing happens between edges (DEDUCED,
log 13). -/
def step (s : State) : Host.Outcome State Fault Refusal :=
  endEdge (blockEdge s.edge (agentWrites s.edge s))

/-- `s` with the request of `nbits` bits `w` presented at the next edge, which accepts it (DESIGN CHOICE, log 10). -/
def State.withFetchWord (s : State) (nbits w : Nat) : State :=
  present (BitVec.ofNat 32 (w % 2 ^ nbits)) s

end Sys2Proof.Machine
end

