-- ==== Sys2Proof/Machine/Outputs.lean ====
section
/-!
DEFINITION. The block's outputs as functions of the state: the LCD lines (10_state.md R27), the string-memory port
(20_memory.md R51), the port view (60_exceptions.md R217 to R219) and the observation of a run (00_scope.md R19).
-/

namespace Sys2Proof.Machine

/-- R27: `lcd_oe = pins_cfg`. -/
def State.lcdOe (s : State) : Bool := s.pinsCfg

/-- R27: `lcd_d`; `none` is Z, a line the block does not drive (DEDUCED, log 15). -/
def State.lcdD (s : State) : Option Nibble := if s.pinsCfg then some s.dQ else none

/-- R27: `lcd_rs`. -/
def State.lcdRs (s : State) : Option Bool := if s.pinsCfg then some s.rsQ else none

/-- R27: `lcd_e`. -/
def State.lcdE (s : State) : Option Bool := if s.pinsCfg then some s.eQ else none

/-- R51: `mem_addr = mem_addr_q`. -/
def State.memAddr (s : State) : Half := s.memAddrQ

/-- R51: `mem_rd = mem_rd_q`. -/
def State.memRd (s : State) : Bool := s.memRdQ

/-- Bit `i` of a port register set to `b`, the other bits kept (R218; DEDUCED, log 19). -/
def setPortBit (i : Fin 8) (b : Bool) (port : Byte) : Byte :=
  (port &&& ~~~ (1#8 <<< i.val)) ||| (if b then 1#8 <<< i.val else 0#8)

/-- R217: the control port's output register, `E_BIT` and `RS_BIT` from the block, the other bits as they were. -/
def State.controlOut (p : Params) (port : Byte) (s : State) : Byte :=
  setPortBit p.rsBit s.rsQ (setPortBit p.eBit s.eQ port)

/-- R217, R219: the control port's direction register, 1 = output. -/
def State.controlDir (p : Params) (port : Byte) (s : State) : Byte :=
  setPortBit p.rsBit s.pinsCfg (setPortBit p.eBit s.pinsCfg port)

/-- R217: the data port's output register, the data nibble in bits 3 to 0. -/
def State.dataOut (port : Byte) (s : State) : Byte := hi port ++ s.dQ

/-- R217, R219: the data port's direction register. -/
def State.dataDir (port : Byte) (s : State) : Byte :=
  hi port ++ (if s.pinsCfg then 0xF#4 else 0x0#4)

/-- R19: what a run is observed by: the latch events with their edges, the reads, and the status vector. -/
structure Observation where
  latches : List LatchEvent
  reads : List ReadEvent
  status : Byte
  deriving DecidableEq, Repr

/-- R19: the observation at a state. -/
def State.observation (s : State) : Observation :=
  { latches := s.latches, reads := s.reads, status := s.status }

end Sys2Proof.Machine
end

