-- ==== Sys2Proof/WellFormed.lean ====
section
/-!
DEFINITION. The assembler's lines (30_encoding.md R80, R81; DESIGN CHOICE, log 18: parsed lines, no text) and the check they
pass. A line carries numbers of any size, and
"A number that does not fit its field (rule R72) is an assembly error, not a truncation": `Asm.wellFormed` is that check, and
`Asm.assemble` gives the request of a line that passes it. A term of `Instr` has operands of its fields' widths and so needs
no check of its own.
-/

namespace Sys2Proof

/-- A line of the syntax of R80, or one of the four pseudo-instructions of R81. Numbers are the values the text spells
(decimal, hexadecimal, or a quoted character's code). -/
inductive Asm where
  | initPins
  /-- `r` is `cmd` (0) or `data` (1). -/
  | sendNibble (v r : Nat)
  | sendCmd4 (v t : Nat)
  | sendCmd8 (c t : Nat)
  | writeChar (h : Nat)
  | writeString (a : Nat)
  | moveCursor (x y : Nat)
  | initProcedure
  | init
  /-- `SEND_CMD4 v`, without a post-delay. -/
  | sendCmd4Now (v : Nat)
  /-- `SEND_CMD8 c`, without a post-delay. -/
  | sendCmd8Now (c : Nat)
  /-- `NIBBLE_CMD v`. -/
  | nibbleCmd (v : Nat)
  /-- `NIBBLE_DATA v`. -/
  | nibbleData (v : Nat)
  deriving DecidableEq, Repr

/-- R81: the line a pseudo-instruction stands for; every other line stands for itself. -/
def Asm.expand : Asm → Asm
  | .sendCmd4Now v => .sendCmd4 v 0
  | .sendCmd8Now c => .sendCmd8 c 0
  | .nibbleCmd v => .sendNibble v 0
  | .nibbleData v => .sendNibble v 1
  | l => l

/-- R80: every number fits its field (R72: `v`, `c`, `h`, `x`, `y` 8 bits, `t` and `a` 16 bits, `r` 1 bit). -/
def Asm.wellFormed : Asm → Bool
  | .initPins => true
  | .sendNibble v r => decide (v < 2 ^ 8) && decide (r < 2 ^ 1)
  | .sendCmd4 v t => decide (v < 2 ^ 8) && decide (t < 2 ^ 16)
  | .sendCmd8 c t => decide (c < 2 ^ 8) && decide (t < 2 ^ 16)
  | .writeChar h => decide (h < 2 ^ 8)
  | .writeString a => decide (a < 2 ^ 16)
  | .moveCursor x y => decide (x < 2 ^ 8) && decide (y < 2 ^ 8)
  | .initProcedure => true
  | .init => true
  | .sendCmd4Now v => decide (v < 2 ^ 8)
  | .sendCmd8Now c => decide (c < 2 ^ 8)
  | .nibbleCmd v => decide (v < 2 ^ 8)
  | .nibbleData v => decide (v < 2 ^ 8)

/-- The request of a line whose numbers fit. -/
def Asm.request : Asm → Instr
  | .initPins => .initPins
  | .sendNibble v r => .sendNibble (BitVec.ofNat 8 v) (r == 1)
  | .sendCmd4 v t => .sendCmd4 (BitVec.ofNat 8 v) (BitVec.ofNat 16 t)
  | .sendCmd8 c t => .sendCmd8 (BitVec.ofNat 8 c) (BitVec.ofNat 16 t)
  | .writeChar h => .writeChar (BitVec.ofNat 8 h)
  | .writeString a => .writeString (BitVec.ofNat 16 a)
  | .moveCursor x y => .moveCursor (BitVec.ofNat 8 x) (BitVec.ofNat 8 y)
  | .initProcedure => .initProcedure
  | .init => .init
  | .sendCmd4Now v => .sendCmd4 (BitVec.ofNat 8 v) 0
  | .sendCmd8Now c => .sendCmd8 (BitVec.ofNat 8 c) 0
  | .nibbleCmd v => .sendNibble (BitVec.ofNat 8 v) false
  | .nibbleData v => .sendNibble (BitVec.ofNat 8 v) true

/-- R80, R81: assembling a line; `none` is the assembly error. -/
def Asm.assemble (l : Asm) : Option Instr :=
  if l.wellFormed then some l.request else none

end Sys2Proof
end

