-- ==== Sys2Proof/Safety.lean ====
section
/-!
DEFINITION. The terms claims use: runs of many edges, the tables of 30_encoding.md R71 and 40_pins_and_nibble.md R108 as
functions, the invariant of the machine, what a well-behaved host does (70_reset_and_hazards.md R234, R245).
-/

namespace Sys2Proof.Machine

/-- A step after an outcome, if the machine goes on. -/
def andThen (o : Host.Outcome State Fault Refusal) (f : State → Host.Outcome State Fault Refusal) :
    Host.Outcome State Fault Refusal :=
  match o with
  | .next s => f s
  | .fault r => .fault r
  | .refused r => .refused r

/-- `k` edges. -/
def run : Nat → State → Host.Outcome State Fault Refusal
  | 0, s => .next s
  | k + 1, s => andThen (step s) (run k)

/-- No reset at the next `n` edges. -/
abbrev NoReset (n : Nat) (s : State) : Prop := ∀ e ∈ s.inputs.take n, e.rst = false

/-- No other agent writes the string memory at the next `n` edges (the host duty of 70_reset_and_hazards.md R240). -/
abbrev NoWrites (n : Nat) (s : State) : Prop := ∀ e ∈ s.inputs.take n, e.memWrites = []

/-- The next edge accepts the legal request `i` (R108: `rst = 0`, `busy = 0`, `req_valid = 1`, `decode` answers `i`). -/
abbrev Accepts (s : State) (i : Instr) : Prop :=
  s.edge.rst = false ∧ s.busy = false ∧ s.edge.reqValid = true ∧ decode s.edge.reqWord = .legal i

/-- R108: `expand(op, fields)`. -/
def expand (p : Params) : Instr → List MicroOp
  | .initPins => [.pins]
  | .sendNibble v r => nib p (lo v) r
  | .sendCmd4 v t => cmd4 p v t.toNat
  | .sendCmd8 c t => cmd8 p c t.toNat
  | .writeChar h => chr p h
  | .writeString _ => [.rdIssue, .rdCap]
  | .moveCursor x y => cmd8 p (cursorCmd p x y) p.cursorDelayUs
  | .initProcedure => initSeq p
  | .init => [.pins] ++ initSeq p

/-- 60_exceptions.md R202: the requests that raise `TRANSFER_BEFORE_PIN_CONFIG` while `pins_cfg = 0`. -/
def needsPins : Instr → Bool
  | .initPins => false
  | .init => false
  | .sendNibble _ _ => true
  | .sendCmd4 _ _ => true
  | .sendCmd8 _ _ => true
  | .writeChar _ => true
  | .writeString _ => true
  | .moveCursor _ _ => true
  | .initProcedure => true

/-- The rows of spec/opcode_table.json as (mask, match). -/
def opcodeRows : List (Word × Word) :=
  [ (0xFFFFFFFF#32, 0x10000000#32), (0xFFFFFE00#32, 0x20000000#32), (0xFF000000#32, 0x30000000#32),
    (0xFF000000#32, 0x40000000#32), (0xFFFFFF00#32, 0x50000000#32), (0xFFFF0000#32, 0x60000000#32),
    (0xFFFF0000#32, 0x70000000#32), (0xFFFFFFFF#32, 0x80000000#32), (0xFFFFFFFF#32, 0x90000000#32) ]

/-- The latch events of a micro-op list without reads whose first micro-op runs at edge `k`, from the line registers at that
edge: a walk of the list, independent of the sequencer. -/
def walkLatches (pins : Bool) (d : Nibble) (rs : Bool) (k : Nat) : List MicroOp → List LatchEvent
  | [] => []
  | .pins :: ms => walkLatches true d rs (k + 1) ms
  | .setD n :: ms => walkLatches pins n rs (k + 1) ms
  | .setRs b :: ms => walkLatches pins d b (k + 1) ms
  | .eLo :: ms =>
    (if pins then [{ rs := rs, d := d, edge := k }] else []) ++ walkLatches pins d rs (k + 1) ms
  | .eHi :: ms => walkLatches pins d rs (k + 1) ms
  | .wait c :: ms => walkLatches pins d rs (k + c) ms
  | .rdIssue :: ms => walkLatches pins d rs (k + 1) ms
  | .rdCap :: ms => walkLatches pins d rs (k + 1) ms

/-- A list the block may run on from any state: it reads no memory and its waits take at least one edge (R100: `c ≥ 1`). -/
def fixedList : List MicroOp → Bool
  | [] => true
  | .rdIssue :: _ => false
  | .rdCap :: _ => false
  | .wait c :: ms => decide (1 ≤ c) && fixedList ms
  | _ :: ms => fixedList ms

/-- A list made of whole nibble transfers (R104), waits the counter can hold (10_state.md R30), pin configurations, and at
most one string read, at its end. -/
def framed (p : Params) : List MicroOp → Bool
  | [] => true
  | [.rdIssue, .rdCap] => true
  | .pins :: ms => framed p ms
  | .wait c :: ms => decide (1 ≤ c) && decide (c ≤ p.counterMax) && framed p ms
  | .setD _ :: .setRs _ :: .eHi :: .wait c :: .eLo :: ms => decide (c = p.strobeCycles) && framed p ms
  | _ => false

/-- What `seq` may be, given the levels of E and of the read strobe: a framed list, or the rest of one whose first nibble
transfer or read has begun. -/
def seqOk (p : Params) (e rd : Bool) : List MicroOp → Bool
  | [.rdCap] => !e && rd
  | .setRs _ :: .eHi :: .wait c :: .eLo :: ms => !e && !rd && decide (c = p.strobeCycles) && framed p ms
  | .eHi :: .wait c :: .eLo :: ms => !e && !rd && decide (c = p.strobeCycles) && framed p ms
  | .wait c :: .eLo :: ms => e && !rd && decide (1 ≤ c) && decide (c ≤ p.strobeCycles) && framed p ms
  | .eLo :: ms => e && !rd && framed p ms
  | ms => !e && !rd && framed p ms

/-- The invariant of the machine: memory in canonical form; `seq = []` exactly when `busy = 0` (10_state.md R30); the
sequence is one the spec's lists can leave; `str_idx` at most `STRING_CAP`, and below it while a read is to come, which only a
string write has (R31). -/
def State.Inv (s : State) : Prop :=
  s.mem.wf = true ∧
  s.busy = !s.seq.isEmpty ∧
  seqOk Config.hw s.eQ s.memRdQ s.seq = true ∧
  s.strIdx ≤ Config.hw.stringCap ∧
  (.rdCap ∈ s.seq → s.strIdx < Config.hw.stringCap ∧ s.rqOp = 0x6#4)

/-- The string engine, the memory port and the reads of the observation are as they were. -/
abbrev KeepsString (s t : State) : Prop :=
  t.strBase = s.strBase ∧ t.strIdx = s.strIdx ∧ t.strByte = s.strByte ∧ t.memAddrQ = s.memAddrQ ∧
  t.memRdQ = s.memRdQ ∧ t.reads = s.reads

/-- The block is idle after `n` edges have passed, and holds the request `i`. -/
abbrev Completed (s t : State) (i : Instr) (n : Nat) : Prop :=
  t.busy = false ∧ t.seq = [] ∧ t.eQ = false ∧ t.rqOp = opcode i ∧ t.rqArg = operands i ∧
  t.cycle = s.cycle + n ∧ t.inputs = s.inputs.drop n

/-- The two latch events of a byte `b` with RS level `r`, if the lines are driven, at the edges `k + N` and `k + 2N`. -/
def byteLatches (p : Params) (driven r : Bool) (k : Nat) (b : Byte) : List LatchEvent :=
  if driven then
    [{ rs := r, d := hi b, edge := k + p.nibbleCycles }, { rs := r, d := lo b, edge := k + 2 * p.nibbleCycles }]
  else []

/-- The latch events of the initialization sequence of a request accepted at edge `k` (INIT: one edge later), if the lines are
driven: RS low, the 14 nibbles of 43_initialization.md R180 at the edges of R184's timeline, whose waits before each nibble
add up to the microseconds shown. -/
def initLatches (p : Params) (driven : Bool) (k : Nat) : List LatchEvent :=
  if driven then
    [ (0x3#4, 1, 15000), (0x3#4, 2, 19100), (0x3#4, 3, 19200), (0x2#4, 4, 19200), (0x2#4, 5, 19245), (0x8#4, 6, 19245),
      (0x0#4, 7, 19290), (0x8#4, 8, 19290), (0x0#4, 9, 19335), (0x1#4, 10, 19335), (0x0#4, 11, 21035), (0x6#4, 12, 21035),
      (0x0#4, 13, 21080), (0xF#4, 14, 21080) ].map
      fun x => { rs := false, d := x.1, edge := k + x.2.1 * p.nibbleCycles + p.cyc x.2.2 }
  else []

/-- The latch events of a string write accepted at edge `k`, from character number `i` on (R152, R154). -/
def stringLatches (p : Params) (driven : Bool) (k : Nat) : Nat → List Byte → List LatchEvent
  | _, [] => []
  | i, b :: bs => byteLatches p driven true (k + i * p.charCycles + 2) b ++ stringLatches p driven k (i + 1) bs

/-- The reads of a string write accepted at edge `k` that returns `bs`, from index `i` on (R53, R54, R154). -/
def stringReads (p : Params) (base : Half) (k : Nat) : Nat → List Byte → List ReadEvent
  | _, [] => []
  | i, b :: bs =>
    { addr := stringAddr base i, byte := b, edge := k + i * p.charCycles + 2 } :: stringReads p base k (i + 1) bs

/-- The bytes `bs` stand in the string memory from `(base + i) mod 2^16` on. -/
def holdsString (m : Memory) (base : Half) : Nat → List Byte → Prop
  | _, [] => True
  | i, b :: bs => m.byteAt? (stringAddr base i).toNat = some b ∧ holdsString m base (i + 1) bs

/-- 70_reset_and_hazards.md R245: the run has ended: idle, and the world outside does nothing more. -/
def State.runEnded (s : State) : Bool :=
  !s.busy && s.inputs.all fun e => !e.rst && !e.reqValid

/-- A host that presents its requests one after the other, each from the first edge at which `req_ready = 1` or before, and
holds `req_valid` until it is accepted (R245, 60_exceptions.md R220): `k` edges of such a run. -/
def serve : Nat → List Word → State → Host.Outcome State Fault Refusal
  | 0, _, s => .next s
  | k + 1, [], s => andThen (step { s with inputs := [] }) (serve k [])
  | k + 1, w :: ws, s =>
    andThen (step { s with inputs := [{ rst := false, reqValid := true, reqWord := w, memWrites := [] }] })
      (serve k (if s.busy then w :: ws else ws))

/-- 70_reset_and_hazards.md R234: the boot order of the requests, given whether the pins are configured and the
initialization sequence has been requested. -/
def bootOrder (pins inited : Bool) : List Instr → Bool
  | [] => true
  | .initPins :: is => bootOrder true inited is
  | .init :: is => bootOrder true true is
  | .initProcedure :: is => pins && bootOrder pins true is
  | .sendNibble _ _ :: is => pins && bootOrder pins inited is
  | .sendCmd4 _ _ :: is => pins && bootOrder pins inited is
  | .sendCmd8 _ _ :: is => pins && bootOrder pins inited is
  | .writeChar _ :: is => pins && inited && bootOrder pins inited is
  | .writeString _ :: is => pins && inited && bootOrder pins inited is
  | .moveCursor _ _ :: is => pins && inited && bootOrder pins inited is

/-- The registers of 10_state.md R20 are the same: what two states share whatever the wires, the memory and the observation
are. -/
abbrev SameRegisters (s t : State) : Prop :=
  t.busy = s.busy ∧ t.pinsCfg = s.pinsCfg ∧ t.dQ = s.dQ ∧ t.rsQ = s.rsQ ∧ t.eQ = s.eQ ∧
  t.errIllegal = s.errIllegal ∧ t.errNopins = s.errNopins ∧ t.rqOp = s.rqOp ∧ t.rqArg = s.rqArg ∧ t.seq = s.seq ∧
  t.strBase = s.strBase ∧ t.strIdx = s.strIdx ∧ t.strByte = s.strByte ∧ t.memAddrQ = s.memAddrQ ∧ t.memRdQ = s.memRdQ

end Sys2Proof.Machine
end

