-- ==== Sys2Proof/Certificates/Slice0/Obligations.lean ====
section
/-!
DEFINITION. The statements about the machine, from the numbered rules of spec/. `Config.hw` are this hardware's parameters;
`CLK_PER_US` stays open in them, so every statement holds for each of its values.
-/

open Sys2Proof Sys2Proof.Machine

/-! ## Encoding -/

/-- 30_encoding.md sections 1 to 3: no bit of an operand is lost between the encoder and the decoder, for all nine requests and
every operand value. -/
def Obligations.DecodeOfEncodeIsTheRequest : Prop :=
  ∀ i : Instr, decode (encode i) = .legal i

/-- 30_encoding.md sections 1 to 3: a legal word is the encoding of the request it decodes to, so no two legal words mean the
same request. -/
def Obligations.LegalWordIsItsRequestsEncoding : Prop :=
  ∀ (w : Word) (i : Instr), decode w = .legal i → encode i = w

/-- The legal words are exactly those that match a row of the opcode table, and the rows do not overlap. -/
def Obligations.LegalExactlyOnOpcodeRows : Prop :=
  (∀ w : Word, (∃ i, decode w = .legal i) ↔ ∃ row ∈ opcodeRows, w &&& row.1 = row.2) ∧
  ∀ w : Word, ∀ r₁ ∈ opcodeRows, ∀ r₂ ∈ opcodeRows, w &&& r₁.1 = r₁.2 → w &&& r₂.1 = r₂.2 → r₁ = r₂

/-- R74: the reserved operation codes. -/
def Obligations.ReservedOpcodeIsIllegal : Prop :=
  ∀ w : Word, (w.extractLsb' 28 4 = 0x0#4 ∨ 0xA#4 ≤ w.extractLsb' 28 4) → ∃ why, decode w = .illegal why

/-- R75: a reserved field or a must-be-zero operand bit that is not zero; the operand positions marked `0` in R71, per
operation code. -/
def Obligations.ReservedBitsAreIllegal : Prop :=
  ∀ w : Word,
    (w.extractLsb' 24 4 ≠ 0#4 ∨
     (w.extractLsb' 28 4 = 0x1#4 ∧ w.extractLsb' 0 24 ≠ 0#24) ∨
     (w.extractLsb' 28 4 = 0x2#4 ∧ w.extractLsb' 9 15 ≠ 0#15) ∨
     (w.extractLsb' 28 4 = 0x5#4 ∧ w.extractLsb' 8 16 ≠ 0#16) ∨
     (w.extractLsb' 28 4 = 0x6#4 ∧ w.extractLsb' 16 8 ≠ 0#8) ∨
     (w.extractLsb' 28 4 = 0x7#4 ∧ w.extractLsb' 16 8 ≠ 0#8) ∨
     (w.extractLsb' 28 4 = 0x8#4 ∧ w.extractLsb' 0 24 ≠ 0#24) ∨
     (w.extractLsb' 28 4 = 0x9#4 ∧ w.extractLsb' 0 24 ≠ 0#24)) →
    ∃ why, decode w = .illegal why

/-- R76: bits `w[7:4]` of `SEND_NIBBLE` and `SEND_CMD4` may have any value, and only the request latch tells two values of
them apart. -/
def Obligations.ValueHighNibbleReachesNoLine : Prop :=
  (∀ (w : Word) (n : Nibble) (v : Byte) (r : Bool), decode w = .legal (.sendNibble v r) →
    decode (w.extractLsb' 8 24 ++ n ++ w.extractLsb' 0 4) = .legal (.sendNibble (n ++ lo v) r)) ∧
  (∀ (w : Word) (n : Nibble) (v : Byte) (t : Half), decode w = .legal (.sendCmd4 v t) →
    decode (w.extractLsb' 8 24 ++ n ++ w.extractLsb' 0 4) = .legal (.sendCmd4 (n ++ lo v) t)) ∧
  (∀ (v : Byte) (n : Nibble) (r : Bool) (s : State), ∃ a b,
    exec (.sendNibble v r) s = .next a ∧ exec (.sendNibble (n ++ lo v) r) s = .next b ∧ b = { a with rqArg := b.rqArg }) ∧
  (∀ (v : Byte) (n : Nibble) (t : Half) (s : State), ∃ a b,
    exec (.sendCmd4 v t) s = .next a ∧ exec (.sendCmd4 (n ++ lo v) t) s = .next b ∧ b = { a with rqArg := b.rqArg })

/-- R82: some of the words of the spec's own table decode to the requests it names. -/
def Obligations.SpecWordsDecode : Prop :=
  decode 0x10000000#32 = .legal .initPins ∧
  decode 0x20000105#32 = .legal (.sendNibble 0x5#8 true) ∧
  decode 0x30100403#32 = .legal (.sendCmd4 0x03#8 4100#16) ∧
  decode 0x4006A401#32 = .legal (.sendCmd8 0x01#8 1700#16) ∧
  decode 0x50000041#32 = .legal (.writeChar 0x41#8) ∧
  decode 0x60000200#32 = .legal (.writeString 0x0200#16) ∧
  decode 0x70000103#32 = .legal (.moveCursor 3#8 1#8) ∧
  decode 0x80000000#32 = .legal .initProcedure ∧
  decode 0x90000000#32 = .legal .init ∧
  decode 0x11000000#32 = .illegal .reservedField ∧
  decode 0x20000205#32 = .illegal .reservedArgBit ∧
  decode 0xA0000000#32 = .illegal .reservedOpcode

/-- 30_encoding.md section 4 (R80, R81): a line assembles exactly when its numbers fit; the request then has those numbers as
its operands, through the encoder at the bit positions of R71; a pseudo-instruction assembles as its expansion. -/
def Obligations.AssemblerNeverTruncates : Prop :=
  (∀ l : Asm, (∃ i, l.assemble = some i) ↔ l.wellFormed = true) ∧
  (∀ l : Asm, l.expand.assemble = l.assemble) ∧
  (∀ (v r : Nat) (i : Instr), (Asm.sendNibble v r).assemble = some i →
    (encode i).toNat = 0x20000000 + 2 ^ 8 * r + v) ∧
  (∀ (v t : Nat) (i : Instr), (Asm.sendCmd4 v t).assemble = some i →
    (encode i).toNat = 0x30000000 + 2 ^ 8 * t + v) ∧
  (∀ (c t : Nat) (i : Instr), (Asm.sendCmd8 c t).assemble = some i →
    (encode i).toNat = 0x40000000 + 2 ^ 8 * t + c) ∧
  (∀ (h : Nat) (i : Instr), (Asm.writeChar h).assemble = some i → (encode i).toNat = 0x50000000 + h) ∧
  (∀ (a : Nat) (i : Instr), (Asm.writeString a).assemble = some i → (encode i).toNat = 0x60000000 + a) ∧
  (∀ (x y : Nat) (i : Instr), (Asm.moveCursor x y).assemble = some i →
    (encode i).toNat = 0x70000000 + 2 ^ 8 * y + x)

/-! ## Acceptance -/

/-- 40_pins_and_nibble.md section 3 (R108), all nine requests in every state: `exec` answers a next state; what it writes
(the request latch, `seq`, `busy`, the sticky pin error, and the string engine of a string write) and that all else, every
byte of the string memory among it, is unchanged. -/
def Obligations.AcceptedRequestEffectAndFrame : Prop :=
  ∀ (i : Instr) (s : State), ∃ t, exec i s = .next t ∧
    t.busy = true ∧ t.seq = expand Config.hw i ∧ t.seq ≠ [] ∧ t.rqOp = opcode i ∧ t.rqArg = operands i ∧
    t.errNopins = (s.errNopins || (needsPins i && !s.pinsCfg)) ∧
    (∀ a, i = .writeString a → t.strBase = a ∧ t.strIdx = 0) ∧
    ((∀ a, i ≠ .writeString a) → t.strBase = s.strBase ∧ t.strIdx = s.strIdx) ∧
    t.errIllegal = s.errIllegal ∧ t.pinsCfg = s.pinsCfg ∧ t.dQ = s.dQ ∧ t.rsQ = s.rsQ ∧ t.eQ = s.eQ ∧
    t.strByte = s.strByte ∧ t.memAddrQ = s.memAddrQ ∧ t.memRdQ = s.memRdQ ∧
    (∀ a, t.mem.byteAt? a = s.mem.byteAt? a) ∧
    t.inputs = s.inputs ∧ t.overwritten = s.overwritten ∧ t.draws = s.draws ∧ t.cycle = s.cycle ∧
    t.latches = s.latches ∧ t.reads = s.reads

/-- R21: the request latch takes `w[31:28]` and `w[23:0]` of the accepted word. -/
def Obligations.RequestLatchHoldsTheWord : Prop :=
  ∀ (s : State) (i : Instr), Accepts s i → ∃ t, step s = .next t ∧
    t.rqOp = s.edge.reqWord.extractLsb' 28 4 ∧ t.rqArg = s.edge.reqWord.extractLsb' 0 24

/-- R201: an illegal word is consumed and discarded; beside the passing of the edge (the wires are used up, the other agents'
writes reach the memory) only `ERR_ILLEGAL` is written. -/
def Obligations.IllegalRequestSetsOnlyItsError : Prop :=
  ∀ (s : State) (why : IllegalWord), s.edge.rst = false → s.busy = false → s.edge.reqValid = true →
    decode s.edge.reqWord = .illegal why →
    step s = .next (passEdge { agentWrites s.edge s with errIllegal := true })

/-- 60_exceptions.md section 1: a request whose operation code is in R202's set, accepted while `pins_cfg = 0`, sets
`ERR_NOPINS` and runs as it does with the lines configured; `INIT_PINS` and `INIT` set nothing, and with the lines configured no
request sets anything. -/
def Obligations.TransferBeforePinConfigOnlyRecordsIt : Prop :=
  ∀ (i : Instr) (s : State), ∃ t u, exec i { s with pinsCfg := false } = .next t ∧ exec i { s with pinsCfg := true } = .next u ∧
    t.errNopins = (s.errNopins || needsPins i) ∧ u.errNopins = s.errNopins ∧
    t = { u with pinsCfg := false, errNopins := t.errNopins }

/-! ## The step -/

/-- 40_pins_and_nibble.md section 1 (R101, R108): at an edge with `rst = 0`, `busy = 0`, `req_valid = 1` and a legal word, the
step is `exec` of the decoded request on the state the other agents' writes of that edge have reached, and then the edge has
passed: its wires are used up and the edge number has advanced. -/
def Obligations.StepRunsTheDecodedRequest : Prop :=
  ∀ (s : State) (i : Instr), Accepts s i → step s = endEdge (exec i (agentWrites s.edge s))

/-- R101: an edge with `rst = 0` and no request, while idle, changes no register, no memory byte beside the other agents'
writes, and nothing of the observation. -/
def Obligations.IdleEdgeChangesNothing : Prop :=
  ∀ s : State, s.edge.rst = false → s.busy = false → s.edge.reqValid = false →
    ∃ t, step s = .next t ∧ SameRegisters s t ∧ t.latches = s.latches ∧ t.reads = s.reads ∧
      t.mem = (agentWrites s.edge s).mem ∧ t.cycle = s.cycle + 1 ∧ t.inputs = s.inputs.tail

/-- 60_exceptions.md section 6 (R220, R221), 40_pins_and_nibble.md R101: while an operation runs, and while `rst = 1`, the
request port has no effect: two edges that differ only in `req_valid` and `req_word` lead to the same outcome. -/
def Obligations.BusyBlockIgnoresTheRequestPort : Prop :=
  ∀ (s : State) (e₁ e₂ : Edge) (es : List Edge), (s.busy = true ∨ e₁.rst = true) →
    e₁.rst = e₂.rst → e₁.memWrites = e₂.memWrites →
    step { s with inputs := e₁ :: es } = step { s with inputs := e₂ :: es }

/-- R230: the reset edge, in every state. -/
def Obligations.ResetEdgeResetsEveryRegister : Prop :=
  ∀ s : State, s.edge.rst = true → s.reqReady = false ∧
    ∃ t, step s = .next t ∧ SameRegisters State.reset t ∧ t.latches = s.latches ∧ t.reads = s.reads ∧
      (t.edge.rst = true → ∃ u, step t = .next u ∧ SameRegisters t u)

/-- R38: the reset values after an edge with `rst = 1` and the outputs then; `State.reset` has the same registers. -/
def Obligations.ResetValuesAreTheSpecs : Prop :=
  ∀ s t : State, s.edge.rst = true → step s = .next t →
    t.busy = false ∧ t.pinsCfg = false ∧ t.dQ = 0x0#4 ∧ t.rsQ = false ∧ t.eQ = false ∧ t.errIllegal = false ∧
    t.errNopins = false ∧ t.rqOp = 0x0#4 ∧ t.rqArg = 0x000000#24 ∧ t.seq = [] ∧ t.strBase = 0x0000#16 ∧ t.strIdx = 0 ∧
    t.strByte = 0x00#8 ∧ t.memAddrQ = 0x0000#16 ∧ t.memRdQ = false ∧
    t.status = 0x00#8 ∧ (t.edge.rst = false → t.reqReady = true) ∧ t.lcdOe = false ∧ t.lcdD = none ∧ t.lcdRs = none ∧
    t.lcdE = none ∧ t.memRd = false ∧ t.memAddr = 0x0000#16 ∧ SameRegisters t State.reset

/-- 20_memory.md section 2 (R58): the block writes no memory: an edge leaves the string memory as the other agents' writes of
that edge make it, and without such writes every byte reads as before. -/
def Obligations.BlockWritesNoMemory : Prop :=
  ∀ s t : State, step s = .next t →
    t.mem = (agentWrites s.edge s).mem ∧ (s.edge.memWrites = [] → ∀ a, t.mem.byteAt? a = s.mem.byteAt? a)

/-- 60_exceptions.md section 1 (R200): an error bit that is set stays set at every edge with `rst = 0`, and every edge with
`rst = 1` clears both. -/
def Obligations.ErrorBitsAreSticky : Prop :=
  ∀ s t : State, step s = .next t →
    (s.edge.rst = false → (s.errIllegal = true → t.errIllegal = true) ∧ (s.errNopins = true → t.errNopins = true)) ∧
    (s.edge.rst = true → t.errIllegal = false ∧ t.errNopins = false)

/-- 60_exceptions.md section 1 (R204, R205): an error bit rises only at an edge that accepts a request, `ERR_ILLEGAL` only for
an illegal word and `ERR_NOPINS` only for a legal word of R202's set while `pins_cfg = 0`; so one edge raises at most one
cause. -/
def Obligations.ErrorsRiseOnlyAtAcceptingEdges : Prop :=
  ∀ s t : State, step s = .next t →
    (s.errIllegal = false → t.errIllegal = true →
      s.edge.rst = false ∧ s.busy = false ∧ s.edge.reqValid = true ∧ (∃ why, decode s.edge.reqWord = .illegal why) ∧
      t.errNopins = s.errNopins) ∧
    (s.errNopins = false → t.errNopins = true →
      s.edge.rst = false ∧ s.busy = false ∧ s.edge.reqValid = true ∧ s.pinsCfg = false ∧
      (∃ i, decode s.edge.reqWord = .legal i ∧ needsPins i = true) ∧ t.errIllegal = s.errIllegal)

/-- 10_state.md section 1 (R23 to R26): at an edge with `rst = 0`, `pins_cfg`, `d_q`, `rs_q` and `e_q` take the value the
running micro-op gives them, and are unchanged by every other edge. -/
def Obligations.LineRegistersHaveOneWriterEach : Prop :=
  ∀ s t : State, step s = .next t → s.edge.rst = false →
    t.pinsCfg = (s.pinsCfg || (s.busy && decide (s.seq.head? = some .pins))) ∧
    (t.dQ = s.dQ ∨ s.busy = true ∧ s.seq.head? = some (.setD t.dQ)) ∧
    (∀ n, s.busy = true → s.seq.head? = some (.setD n) → t.dQ = n) ∧
    (t.rsQ = s.rsQ ∨ s.busy = true ∧ s.seq.head? = some (.setRs t.rsQ)) ∧
    (∀ b, s.busy = true → s.seq.head? = some (.setRs b) → t.rsQ = b) ∧
    (t.eQ = if s.busy = true ∧ s.seq.head? = some .eHi then true
      else if s.busy = true ∧ s.seq.head? = some .eLo then false else s.eQ)

/-- R107: the observation grows by one latch event at exactly the edges that execute `ELO`
with `pins_cfg = 1` and `rst = 0`, and by nothing at any other edge. -/
def Obligations.LatchEventExactlyAtDrivenElo : Prop :=
  ∀ s t : State, step s = .next t →
    t.latches = s.latches ++
      (if s.edge.rst = false ∧ s.busy = true ∧ s.seq.head? = some .eLo ∧ s.pinsCfg = true then
        [{ rs := s.rsQ, d := s.dQ, edge := s.cycle }] else []) ∧
    (s.edge.rst = false → s.busy = true → s.seq.head? = some .eLo → t.rsQ = s.rsQ ∧ t.dQ = s.dQ ∧ t.eQ = false)

/-- 10_state.md section 2 (R31, R32), 20_memory.md R52, R64: at an edge with `rst = 0` the string-memory port registers are
written only by `RDISSUE` and `RDCAP`, so that `mem_addr` holds the last address; the string engine only by those and by the
acceptance of a string write. -/
def Obligations.StringRegistersHaveTheirWriters : Prop :=
  ∀ s t : State, step s = .next t → s.edge.rst = false →
    (t.memAddrQ = if s.busy = true ∧ s.seq.head? = some .rdIssue then stringAddr s.strBase s.strIdx else s.memAddrQ) ∧
    (t.memRdQ = if s.busy = true ∧ s.seq.head? = some .rdIssue then true
      else if s.busy = true ∧ s.seq.head? = some .rdCap then false else s.memRdQ) ∧
    (t.strByte = if s.busy = true ∧ s.seq.head? = some .rdCap then (agentWrites s.edge s).memRdata else s.strByte) ∧
    (t.strIdx ≠ s.strIdx → (s.busy = true ∧ s.seq.head? = some .rdCap ∧ t.strIdx = s.strIdx + 1) ∨
      ∃ a, Accepts s (.writeString a) ∧ t.strIdx = 0) ∧
    (t.strBase ≠ s.strBase → Accepts s (.writeString t.strBase))

/-! ## The invariant -/

/-- The invariant holds after reset (R38). -/
def Obligations.ResetMeetsTheInvariant : Prop := State.reset.Inv

/-- Every edge keeps the invariant: the memory in canonical form, `seq = []` exactly when `busy = 0`, the sequence one the
spec's lists can leave (whole nibble transfers, waits the counter can hold), `str_idx` within its bounds. -/
def Obligations.EveryEdgeKeepsTheInvariant : Prop :=
  ∀ s t : State, s.Inv → step s = .next t → t.Inv

/-- 40_pins_and_nibble.md section 1 (R101), 60_exceptions.md R206: from a state of the invariant the machine never stops: every
edge has a next state. -/
def Obligations.NoEdgeStopsTheMachine : Prop :=
  ∀ s : State, s.Inv → ∃ t, step s = .next t

/-- R113: E idles low. -/
def Obligations.EnableIsLowWhenIdle : Prop :=
  ∀ s t : State, s.Inv → step s = .next t → t.busy = false → t.eQ = false

/-- 40_pins_and_nibble.md section 2 (R105, R106 (1)): at an edge with `rst = 0`, the data bus and RS do not change while E is
high, nor at the edge where E rises or falls. -/
def Obligations.LinesAreStableAroundTheStrobe : Prop :=
  ∀ s t : State, s.Inv → step s = .next t → s.edge.rst = false → (s.eQ = true ∨ t.eQ = true) →
    t.dQ = s.dQ ∧ t.rsQ = s.rsQ

/-- 40_pins_and_nibble.md section 2 (R105, R106 (2)): once E has risen it is high for exactly `S + 1` cycles, unless reset. -/
def Obligations.EnableIsHighForTheStrobeWidth : Prop :=
  ∀ s t : State, s.Inv → step s = .next t → s.eQ = false → t.eQ = true → NoReset (Config.hw.strobeCycles + 1) t →
    (∀ k ≤ Config.hw.strobeCycles, ∃ u, run k t = .next u ∧ u.eQ = true) ∧
    ∃ u, run (Config.hw.strobeCycles + 1) t = .next u ∧ u.eQ = false

/-- 40_pins_and_nibble.md section 2 (R106 (3)): after E has fallen it stays low for at least 3 cycles, and for at least 4 if the
operation ended with that edge. -/
def Obligations.EnableStaysLowBetweenStrobes : Prop :=
  ∀ s t : State, s.Inv → step s = .next t → s.eQ = true → t.eQ = false →
    (∀ k ≤ 2, ∀ u, run k t = .next u → u.eQ = false) ∧
    (t.busy = false → ∀ u, run 3 t = .next u → u.eQ = false)

/-- 10_state.md section 2 (R32), 20_memory.md section 1 (R52): the read strobe is high for one cycle per read, and the edge that
ends it samples one byte, recorded with its address. The edge number in the record is the model's choice (log 5). -/
def Obligations.ReadStrobeLastsOneCycle : Prop :=
  ∀ s t : State, s.Inv → step s = .next t → s.memRdQ = true →
    t.memRdQ = false ∧
    (s.edge.rst = false → t.reads = s.reads ++ [{ addr := s.memAddrQ, byte := t.strByte, edge := s.cycle }])

/-! ## Runs of the sequencer -/

/-- 40_pins_and_nibble.md section 1 (R100, R101, R103): from any state that is running a list without reads, the list takes
exactly the sum of its micro-ops' edges if no reset comes: `busy` is 1 before each of those edges and 0 after the last, and the
latch events are those of a walk of the list. -/
def Obligations.ListCompletesInItsTotalEdges : Prop :=
  ∀ s : State, s.busy = true → s.seq ≠ [] → fixedList s.seq = true → NoReset (totalEdges s.seq) s →
    (∀ k < totalEdges s.seq, ∃ u, run k s = .next u ∧ u.busy = true ∧ u.seq ≠ []) ∧
    ∃ t, run (totalEdges s.seq) s = .next t ∧ t.busy = false ∧ t.seq = [] ∧
      t.cycle = s.cycle + totalEdges s.seq ∧
      t.latches = s.latches ++ walkLatches s.pinsCfg s.dQ s.rsQ s.cycle s.seq ∧
      KeepsString s t ∧ t.errIllegal = s.errIllegal ∧ t.errNopins = s.errNopins ∧ t.rqOp = s.rqOp ∧ t.rqArg = s.rqArg

/-- 40_pins_and_nibble.md section 1 (R100, R101: the micro-ops and the step), and for the initialization sequence
43_initialization.md section 1 (R183): a list without reads, an initialization sequence among them, does the same whatever
the request port, the string memory and the other agents do: two runs that differ in those alone have the same registers and
latch events after every number of edges up to the list's end. -/
def Obligations.FixedListIgnoresEveryInputButReset : Prop :=
  ∀ s₁ s₂ : State, SameRegisters s₁ s₂ → s₁.latches = s₂.latches → s₁.cycle = s₂.cycle →
    s₁.busy = true → fixedList s₁.seq = true →
    ∀ k ≤ totalEdges s₁.seq, NoReset k s₁ → NoReset k s₂ → ∀ t₁, run k s₁ = .next t₁ →
      ∃ t₂, run k s₂ = .next t₂ ∧ SameRegisters t₁ t₂ ∧ t₁.latches = t₂.latches ∧ t₁.reads = s₁.reads ∧ t₂.reads = s₂.reads

/-- R102: a wait of `t > 0` microseconds takes exactly `t * CLK_PER_US` edges, during which no output changes (but `BUSY`, at the
last edge of a wait that ends its operation, R103), and a wait of 0 takes none. -/
def Obligations.WaitTakesItsCyclesAndMovesNoLine : Prop :=
  (∀ t, dly Config.hw t = if t * Config.hw.clkPerUs = 0 then [] else [.wait (t * Config.hw.clkPerUs)]) ∧
  (∀ t, totalEdges (dly Config.hw t) = t * Config.hw.clkPerUs) ∧
  ∀ (t : Nat) (ms : List MicroOp) (s : State), 0 < t → s.busy = true → s.seq = dly Config.hw t ++ ms →
    NoReset (t * Config.hw.clkPerUs) s →
    ∀ k ≤ t * Config.hw.clkPerUs, ∃ u, run k s = .next u ∧
      (k < t * Config.hw.clkPerUs → u.seq = .wait (t * Config.hw.clkPerUs - k) :: ms ∧ u.status = s.status) ∧
      (k = t * Config.hw.clkPerUs → u.seq = ms ∧ u.busy = !ms.isEmpty ∧ (ms ≠ [] → u.status = s.status)) ∧
      u.lcdOe = s.lcdOe ∧ u.lcdD = s.lcdD ∧ u.lcdRs = s.lcdRs ∧ u.lcdE = s.lcdE ∧
      u.memAddr = s.memAddr ∧ u.memRd = s.memRd ∧ u.latches = s.latches ∧ u.reads = s.reads

/-- R105: the table of one nibble transfer, edge by edge, in any state that begins one with E low, and the latch event. -/
def Obligations.NibbleTransferEdgeByEdge : Prop :=
  ∀ (n : Nibble) (r : Bool) (ms : List MicroOp) (s : State), s.busy = true → s.eQ = false →
    s.seq = nib Config.hw n r ++ ms → NoReset Config.hw.nibbleCycles s →
    (∃ u, run 1 s = .next u ∧ u.dQ = n ∧ u.rsQ = s.rsQ ∧ u.eQ = false) ∧
    (∃ u, run 2 s = .next u ∧ u.dQ = n ∧ u.rsQ = r ∧ u.eQ = false) ∧
    (∀ k ≤ Config.hw.strobeCycles, ∃ u, run (3 + k) s = .next u ∧ u.dQ = n ∧ u.rsQ = r ∧ u.eQ = true ∧
      u.latches = s.latches) ∧
    (∃ u, run Config.hw.nibbleCycles s = .next u ∧ u.dQ = n ∧ u.rsQ = r ∧ u.eQ = false ∧ u.seq = ms ∧
      u.latches = s.latches ++
        (if s.pinsCfg then [{ rs := r, d := n, edge := s.cycle + 3 + Config.hw.strobeCycles }] else []))

/-! ## The operations, from the accepting edge to completion

`Accepts s i` says that the next edge of `s`, number `s.cycle`, accepts `i`; the operation completes `D` edges later.
The wires of the coming edges and the edge numbers are the model's own form of a run (log 1, log 5), and so is the one edge a
read is recorded with. -/

/-- 40_pins_and_nibble.md section 4 (R109): INIT_PINS, `D = 1`. -/
def Obligations.InitPinsConfiguresTheLines : Prop :=
  ∀ s : State, s.Inv → Accepts s .initPins → NoReset 2 s →
    ∃ u t, step s = .next u ∧ u.busy = true ∧ u.pinsCfg = s.pinsCfg ∧ run 2 s = .next t ∧ Completed s t .initPins 2 ∧
      t.pinsCfg = true ∧ t.lcdOe = true ∧ t.dQ = s.dQ ∧ t.rsQ = s.rsQ ∧ t.errIllegal = s.errIllegal ∧
      t.errNopins = s.errNopins ∧ t.latches = s.latches ∧ KeepsString s t

/-- 40_pins_and_nibble.md section 4 (R110): SEND_NIBBLE, `D = N`. -/
def Obligations.SendNibbleTransfersTheLowNibble : Prop :=
  ∀ (s : State) (v : Byte) (r : Bool), Accepts s (.sendNibble v r) → NoReset (1 + Config.hw.nibbleCycles) s →
    ∃ t, run (1 + Config.hw.nibbleCycles) s = .next t ∧
      Completed s t (.sendNibble v r) (1 + Config.hw.nibbleCycles) ∧
      t.dQ = lo v ∧ t.rsQ = r ∧ t.pinsCfg = s.pinsCfg ∧ t.errIllegal = s.errIllegal ∧
      t.errNopins = (s.errNopins || !s.pinsCfg) ∧ KeepsString s t ∧
      t.latches = s.latches ++
        (if s.pinsCfg then [{ rs := r, d := lo v, edge := s.cycle + Config.hw.nibbleCycles }] else [])

/-- 41_command_send.md section 1 (R130, R131): SEND_CMD4, `D = N + t * K`. -/
def Obligations.SendCmd4SendsOneNibbleAndWaits : Prop :=
  ∀ (s : State) (v : Byte) (d : Half), Accepts s (.sendCmd4 v d) →
    NoReset (1 + (Config.hw.nibbleCycles + Config.hw.cyc d.toNat)) s →
    ∃ t, run (1 + (Config.hw.nibbleCycles + Config.hw.cyc d.toNat)) s = .next t ∧
      Completed s t (.sendCmd4 v d) (1 + (Config.hw.nibbleCycles + Config.hw.cyc d.toNat)) ∧
      t.dQ = lo v ∧ t.rsQ = false ∧ t.pinsCfg = s.pinsCfg ∧ t.errIllegal = s.errIllegal ∧
      t.errNopins = (s.errNopins || !s.pinsCfg) ∧ KeepsString s t ∧
      t.latches = s.latches ++
        (if s.pinsCfg then [{ rs := false, d := lo v, edge := s.cycle + Config.hw.nibbleCycles }] else [])

/-- 41_command_send.md section 2 (R132, R133): SEND_CMD8, high nibble first, both with RS low, `D = 2N + t * K`. -/
def Obligations.SendCmd8SendsHighThenLowNibble : Prop :=
  ∀ (s : State) (c : Byte) (d : Half), Accepts s (.sendCmd8 c d) →
    NoReset (1 + (2 * Config.hw.nibbleCycles + Config.hw.cyc d.toNat)) s →
    ∃ t, run (1 + (2 * Config.hw.nibbleCycles + Config.hw.cyc d.toNat)) s = .next t ∧
      Completed s t (.sendCmd8 c d) (1 + (2 * Config.hw.nibbleCycles + Config.hw.cyc d.toNat)) ∧
      t.dQ = lo c ∧ t.rsQ = false ∧ t.pinsCfg = s.pinsCfg ∧ t.errIllegal = s.errIllegal ∧
      t.errNopins = (s.errNopins || !s.pinsCfg) ∧ KeepsString s t ∧
      t.latches = s.latches ++ byteLatches Config.hw s.pinsCfg false s.cycle c

/-- 42_text_output.md section 1 (R150, R151): WRITE_CHAR, high nibble first, both with RS high, `D = 2N + 50 * K`. -/
def Obligations.WriteCharSendsTheCodeInDataMode : Prop :=
  ∀ (s : State) (h : Byte), Accepts s (.writeChar h) →
    NoReset (1 + (2 * Config.hw.nibbleCycles + Config.hw.cyc 50)) s →
    ∃ t, run (1 + (2 * Config.hw.nibbleCycles + Config.hw.cyc 50)) s = .next t ∧
      Completed s t (.writeChar h) (1 + (2 * Config.hw.nibbleCycles + Config.hw.cyc 50)) ∧
      t.dQ = lo h ∧ t.rsQ = true ∧ t.pinsCfg = s.pinsCfg ∧ t.errIllegal = s.errIllegal ∧
      t.errNopins = (s.errNopins || !s.pinsCfg) ∧ KeepsString s t ∧
      t.latches = s.latches ++ byteLatches Config.hw s.pinsCfg true s.cycle h

/-- 42_text_output.md section 3 (R156): MOVE_CURSOR sends the command byte `0x80 | ((16 y + x) mod 128)`, `D = 2N + 50 * K`. -/
def Obligations.MoveCursorSendsTheAddressCommand : Prop :=
  ∀ (s : State) (x y : Byte), Accepts s (.moveCursor x y) →
    NoReset (1 + (2 * Config.hw.nibbleCycles + Config.hw.cyc 50)) s →
    ∃ (t : State) (c : Byte), c.toNat = 128 + (y.toNat * 16 + x.toNat) % 128 ∧
      run (1 + (2 * Config.hw.nibbleCycles + Config.hw.cyc 50)) s = .next t ∧
      Completed s t (.moveCursor x y) (1 + (2 * Config.hw.nibbleCycles + Config.hw.cyc 50)) ∧
      t.dQ = lo c ∧ t.rsQ = false ∧ t.pinsCfg = s.pinsCfg ∧ t.errIllegal = s.errIllegal ∧
      t.errNopins = (s.errNopins || !s.pinsCfg) ∧ KeepsString s t ∧
      t.latches = s.latches ++ byteLatches Config.hw s.pinsCfg false s.cycle c

/-- 43_initialization.md section 1 (R180, R184): the latch events of the initialization sequence whose first wait begins at the
edge `k`: nibble values, RS low, and edges. -/
def Obligations.InitProcedureRunsTheSequence : Prop :=
  ∀ s : State, Accepts s .initProcedure →
    NoReset (1 + (14 * Config.hw.nibbleCycles + Config.hw.cyc 21125)) s →
    ∃ t, run (1 + (14 * Config.hw.nibbleCycles + Config.hw.cyc 21125)) s = .next t ∧
      Completed s t .initProcedure (1 + (14 * Config.hw.nibbleCycles + Config.hw.cyc 21125)) ∧
      t.dQ = 0xF#4 ∧ t.rsQ = false ∧ t.pinsCfg = s.pinsCfg ∧ t.errIllegal = s.errIllegal ∧
      t.errNopins = (s.errNopins || !s.pinsCfg) ∧ KeepsString s t ∧
      t.latches = s.latches ++ initLatches Config.hw s.pinsCfg s.cycle

/-- 43_initialization.md section 1 (R182): INIT is the pins and then the sequence, one edge later than INIT_PROCEDURE, and
raises no error. -/
def Obligations.InitConfiguresPinsThenRunsTheSequence : Prop :=
  ∀ s : State, Accepts s .init →
    NoReset (1 + (1 + 14 * Config.hw.nibbleCycles + Config.hw.cyc 21125)) s →
    ∃ t, run (1 + (1 + 14 * Config.hw.nibbleCycles + Config.hw.cyc 21125)) s = .next t ∧
      Completed s t .init (1 + (1 + 14 * Config.hw.nibbleCycles + Config.hw.cyc 21125)) ∧
      t.dQ = 0xF#4 ∧ t.rsQ = false ∧ t.pinsCfg = true ∧ t.errIllegal = s.errIllegal ∧ t.errNopins = s.errNopins ∧
      KeepsString s t ∧ t.latches = s.latches ++ initLatches Config.hw true (s.cycle + 1)

/-- 42_text_output.md section 2 (R152 to R155): WRITE_STRING of `n < 100` characters and a terminator, read from a string memory
no other agent writes meanwhile: the characters in order, the reads, and `D = n * C + 2`. -/
def Obligations.WriteStringStopsAtTheTerminator : Prop :=
  ∀ (s : State) (a : Half) (bs : List Byte), s.Inv → Accepts s (.writeString a) → bs.length < 100 → 0x00#8 ∉ bs →
    holdsString s.mem a 0 (bs ++ [0x00#8]) →
    NoReset (1 + (bs.length * Config.hw.charCycles + 2)) s → NoWrites (1 + (bs.length * Config.hw.charCycles + 2)) s →
    ∃ t, run (1 + (bs.length * Config.hw.charCycles + 2)) s = .next t ∧
      Completed s t (.writeString a) (1 + (bs.length * Config.hw.charCycles + 2)) ∧
      t.strBase = a ∧ t.strIdx = bs.length ∧ t.strByte = 0x00#8 ∧ t.memAddrQ = stringAddr a bs.length ∧
      t.memRdQ = false ∧ t.mem = s.mem ∧ t.pinsCfg = s.pinsCfg ∧ t.errIllegal = s.errIllegal ∧
      t.errNopins = (s.errNopins || !s.pinsCfg) ∧
      t.latches = s.latches ++ stringLatches Config.hw s.pinsCfg s.cycle 0 bs ∧
      t.reads = s.reads ++ stringReads Config.hw a s.cycle 0 (bs ++ [0x00#8])

/-- 42_text_output.md section 2 (R152 to R155): WRITE_STRING of 100 characters that are not null: it stops there without an
error, whatever byte follows, and does not read it; `D = 100 * C`. -/
def Obligations.WriteStringStopsAtTheCap : Prop :=
  ∀ (s : State) (a : Half) (bs : List Byte), Accepts s (.writeString a) → bs.length = 100 → 0x00#8 ∉ bs →
    holdsString s.mem a 0 bs →
    NoReset (1 + 100 * Config.hw.charCycles) s → NoWrites (1 + 100 * Config.hw.charCycles) s →
    ∃ t, run (1 + 100 * Config.hw.charCycles) s = .next t ∧
      Completed s t (.writeString a) (1 + 100 * Config.hw.charCycles) ∧
      t.strBase = a ∧ t.strIdx = 100 ∧ some t.strByte = bs.getLast? ∧ t.memAddrQ = stringAddr a 99 ∧
      t.memRdQ = false ∧ t.mem = s.mem ∧ t.pinsCfg = s.pinsCfg ∧ t.errIllegal = s.errIllegal ∧
      t.errNopins = (s.errNopins || !s.pinsCfg) ∧
      t.latches = s.latches ++ stringLatches Config.hw s.pinsCfg s.cycle 0 bs ∧
      t.reads = s.reads ++ stringReads Config.hw a s.cycle 0 bs

/-- 42_text_output.md section 3 (R156, R157): the command byte, for every column and row; inside the source's range no bit is
lost, and the rows and columns R157 tabulates. -/
def Obligations.CursorCommandByte : Prop :=
  (∀ x y : Byte, (cursorCmd Config.hw x y).toNat = 128 + (y.toNat * 16 + x.toNat) % 128) ∧
  (∀ x y : Byte, x.toNat ≤ 15 → y.toNat ≤ 1 → (cursorCmd Config.hw x y).toNat = 0x80 ||| (y.toNat * 16 + x.toNat)) ∧
  cursorCmd Config.hw 0#8 0#8 = 0x80#8 ∧ cursorCmd Config.hw 15#8 0#8 = 0x8F#8 ∧ cursorCmd Config.hw 0#8 1#8 = 0x90#8 ∧
  cursorCmd Config.hw 15#8 1#8 = 0x9F#8 ∧ cursorCmd Config.hw 16#8 0#8 = 0x90#8 ∧ cursorCmd Config.hw 0#8 8#8 = 0x80#8 ∧
  cursorCmd Config.hw 127#8 0#8 = 0xFF#8 ∧ cursorCmd Config.hw 255#8 255#8 = 0xEF#8

/-! ## The string memory -/

/-- R53: the address at which byte `str_idx` of the string at `str_base` is read, in the two edges of a read; the wrap from
`0xFFFF` to `0x0000` raises no error. -/
def Obligations.StringAddressesWrap : Prop :=
  (∀ (s : State) (ms : List MicroOp), NoReset 2 s → s.busy = true → s.seq = .rdIssue :: .rdCap :: ms →
    ∃ t u, step s = .next t ∧ t.memRdQ = true ∧ t.memAddrQ.toNat = (s.strBase.toNat + s.strIdx) % 2 ^ 16 ∧
      step t = .next u ∧ (∃ k, u.reads = s.reads ++ [{ addr := t.memAddrQ, byte := u.strByte, edge := k }]) ∧
      u.errIllegal = s.errIllegal ∧ u.errNopins = s.errNopins) ∧
  (∀ (base : Half) (i : Nat), stringAddr base (i + 1) = stringAddr base i + 1#16) ∧
  stringAddr 0xFFFF#16 1 = 0x0000#16

/-- 20_memory.md sections 1 and 3 (R55, R60): while the read strobe is high, a byte with known contents that no other agent
has written since the operation was accepted is read as those contents; a byte that was written is read as one of the values
it had, if all of them are known. Which contents are known and which writes count is the model's choice (log 2, log 3). -/
def Obligations.StringReadReturnsOldOrNewContents : Prop :=
  ∀ s : State, s.memRdQ = true →
    ((∀ w ∈ s.overwritten, w.1 ≠ s.memAddrQ) → ∀ b, s.mem.byteAt? s.memAddrQ.toNat = some b → s.memRdata = b) ∧
    (∀ b, s.mem.byteAt? s.memAddrQ.toNat = some b → (∀ w ∈ s.overwritten, w.1 = s.memAddrQ → w.2 ≠ none) →
      s.memRdata = b ∨ (s.memAddrQ, some s.memRdata) ∈ s.overwritten)

/-- 42_text_output.md section 2 (R152, R153): the `RDCAP` edge: the null byte ends the operation and is not sent; another byte
is sent, and followed by the next read unless it was the last the cap allows. -/
def Obligations.StringContinuation : Prop :=
  ∀ s : State, s.Inv → s.edge.rst = false → s.busy = true → s.seq = [.rdCap] → ∃ t, step s = .next t ∧ t.memRdQ = false ∧
    t.strByte = (agentWrites s.edge s).memRdata ∧
    (t.strByte = 0x00#8 → t.busy = false ∧ t.seq = [] ∧ t.strIdx = s.strIdx) ∧
    (t.strByte ≠ 0x00#8 → t.busy = true ∧ t.strIdx = s.strIdx + 1 ∧ t.strIdx ≤ 100 ∧
      t.seq = nib Config.hw (hi t.strByte) true ++ nib Config.hw (lo t.strByte) true ++ dly Config.hw 50 ++
        (if t.strIdx = 100 then [] else [.rdIssue, .rdCap]))

/-! ## Outputs -/

/-- 10_state.md section 3 (R33, R34) and 70_reset_and_hazards.md section 5 (R245): the bits of the status vector, the ready
output, and when no error is recorded. That a state shows the level of `rst` at its next edge is the model's choice of form
(log 1). -/
def Obligations.StatusVectorBits : Prop :=
  ∀ s : State, s.status.getLsbD 0 = s.busy ∧ s.status.getLsbD 1 = s.pinsCfg ∧ s.status.getLsbD 2 = s.errIllegal ∧
    s.status.getLsbD 3 = s.errNopins ∧ s.status.extractLsb' 4 4 = 0#4 ∧
    s.reqReady = (!s.busy && !s.edge.rst) ∧ (s.noError = true ↔ s.errIllegal = false ∧ s.errNopins = false)

/-- 60_exceptions.md section 5 (R217, R218): the port view: the six owned bits carry the block's values, whatever bit positions
`E_BIT` and `RS_BIT` are, and every other bit is as it was. -/
def Obligations.PortViewOwnsSixBits : Prop :=
  ∀ (s : State) (port : Byte) (i : Fin 8),
    (s.controlOut Config.hw port).getLsbD i =
      (if i = Config.hw.rsBit then s.rsQ else if i = Config.hw.eBit then s.eQ else port.getLsbD i) ∧
    (s.controlDir Config.hw port).getLsbD i =
      (if i = Config.hw.rsBit then s.pinsCfg else if i = Config.hw.eBit then s.pinsCfg else port.getLsbD i) ∧
    (s.dataOut port).getLsbD i = (if i.val < 4 then s.dQ.getLsbD i else port.getLsbD i) ∧
    (s.dataDir port).getLsbD i = (if i.val < 4 then s.pinsCfg else port.getLsbD i) ∧
    Config.hw.rsBit ≠ Config.hw.eBit

/-! ## A run -/

/-- 70_reset_and_hazards.md section 2 (R234), 60_exceptions.md R202: a host that keeps the boot order gets no error: from reset,
at every number of edges of the run that serves its requests, no error is recorded. -/
def Obligations.BootOrderRunRecordsNoError : Prop :=
  ∀ (is : List Instr), bootOrder false false is = true → ∀ k : Nat,
    ∃ t, serve k (is.map encode) State.reset = .next t ∧ t.errIllegal = false ∧ t.errNopins = false ∧ t.noError = true
end

