-- ==== Sys2Proof/Laws/Encoding.lean ====
section
/-!
SUPPORT. The three fields of an encoded request (30_encoding.md R70), and a word put together again from its fields.
-/

namespace Sys2Proof

theorem extract_high (a b : BitVec 4) (c : BitVec 24) : (a ++ b ++ c).extractLsb' 28 4 = a := by
  apply BitVec.eq_of_getLsbD_eq
  intro i hi
  simp only [BitVec.getLsbD_extractLsb', BitVec.getLsbD_append, hi, show ¬ (28 + i < 24) by omega,
    show ¬ (28 + i - 24 < 4) by omega, show 28 + i - 24 - 4 = i by omega, decide_true, Bool.true_and, if_false]

theorem extract_middle (a b : BitVec 4) (c : BitVec 24) : (a ++ b ++ c).extractLsb' 24 4 = b := by
  apply BitVec.eq_of_getLsbD_eq
  intro i hi
  simp only [BitVec.getLsbD_extractLsb', BitVec.getLsbD_append, hi, show ¬ (24 + i < 24) by omega,
    show 24 + i - 24 = i by omega, decide_true, Bool.true_and, if_false, if_true]

theorem extract_low (a b : BitVec 4) (c : BitVec 24) (l n : Nat) (h : l + n ≤ 24) :
    (a ++ b ++ c).extractLsb' l n = c.extractLsb' l n := by
  apply BitVec.eq_of_getLsbD_eq
  intro i hi
  simp only [BitVec.getLsbD_extractLsb', BitVec.getLsbD_append, hi, show l + i < 24 by omega, decide_true, if_true]

theorem getLsbD_low (a b : BitVec 4) (c : BitVec 24) (k : Nat) (h : k < 24) :
    (a ++ b ++ c).getLsbD k = c.getLsbD k := by
  simp only [BitVec.getLsbD_append, h, if_true]

/-- R70: `OP` of an encoded request. -/
@[simp] theorem opField_encode (i : Instr) : opField (encode i) = opcode i := extract_high _ _ _

/-- R70: `RSV` of an encoded request is `0000`. -/
@[simp] theorem rsvField_encode (i : Instr) : rsvField (encode i) = 0#4 := extract_middle _ _ _

/-- R70: `ARG` of an encoded request. -/
@[simp] theorem argField_encode (i : Instr) : argField (encode i) = operands i := by
  unfold argField encode
  rw [extract_low _ _ _ 0 24 (by omega)]
  simp

/-- A word is its three fields. -/
theorem word_of_fields (w : Word) : opField w ++ rsvField w ++ argField w = w := by
  apply BitVec.eq_of_getLsbD_eq
  intro i hi
  simp only [opField, rsvField, argField, BitVec.getLsbD_extractLsb', BitVec.getLsbD_append]
  split
  · simp_all
  · split
    · simp [*, show 24 + (i - 24) = i by omega]
    · simp [show 28 + (i - 24 - 4) = i by omega, show i - 24 - 4 < 4 by omega]

end Sys2Proof
end

