-- ==== Sys2Proof/Laws/Lists.lean ====
section
/-!
SUPPORT. The parameters of this hardware and the micro-op lists (40_pins_and_nibble.md R102 to R104).
-/

namespace Sys2Proof.Machine

@[simp] theorem hw_strobeUs : Config.hw.strobeUs = 1 := rfl
@[simp] theorem hw_charSettleUs : Config.hw.charSettleUs = 50 := rfl
@[simp] theorem hw_cursorDelayUs : Config.hw.cursorDelayUs = 50 := rfl
@[simp] theorem hw_tPowerUs : Config.hw.tPowerUs = 15000 := rfl
@[simp] theorem hw_tInit1Us : Config.hw.tInit1Us = 4100 := rfl
@[simp] theorem hw_tInit2Us : Config.hw.tInit2Us = 100 := rfl
@[simp] theorem hw_tCmdUs : Config.hw.tCmdUs = 45 := rfl
@[simp] theorem hw_tClearUs : Config.hw.tClearUs = 1700 := rfl
@[simp] theorem hw_columns : Config.hw.columns = 16 := rfl
@[simp] theorem hw_stringCap : Config.hw.stringCap = 100 := rfl

theorem hw_clkPerUs_pos : 0 < Config.hw.clkPerUs := Config.clkPerUsOpen.property

theorem hw_rsBit_ne_eBit : Config.hw.rsBit ≠ Config.hw.eBit := by
  change Config.rsBit ≠ Config.eBit
  unfold Config.rsBit
  intro h
  have := congrArg Fin.val h
  split at this <;> simp at this <;> omega

theorem hw_legal : Config.hw.Legal :=
  ⟨hw_clkPerUs_pos, by simp, by simp, by simp, hw_rsBit_ne_eBit⟩

@[simp] theorem hw_strobeCycles : Config.hw.strobeCycles = Config.hw.clkPerUs := by simp [Params.strobeCycles]

@[simp] theorem hw_counterMax : Config.hw.counterMax = 65535 * Config.hw.clkPerUs := by
  simp [Params.counterMax]

@[simp] theorem dly_zero (p : Params) : dly p 0 = [] := by simp [dly]

theorem dly_hw (t : Nat) (h : 0 < t) : dly Config.hw t = [.wait (Config.hw.cyc t)] := by
  have := hw_clkPerUs_pos
  simp [dly, Params.cyc]
  omega

theorem nib_hw (n : Nibble) (r : Bool) :
    nib Config.hw n r = [.setD n, .setRs r, .eHi, .wait Config.hw.strobeCycles, .eLo] := by
  simp only [nib, dly_hw Config.hw.strobeUs (by simp), Params.cyc, Params.strobeCycles]
  rfl

@[simp] theorem totalEdges_nil : totalEdges [] = 0 := rfl

@[simp] theorem totalEdges_cons (m : MicroOp) (ms : List MicroOp) :
    totalEdges (m :: ms) = m.edges + totalEdges ms := rfl

@[simp] theorem totalEdges_append (xs ys : List MicroOp) :
    totalEdges (xs ++ ys) = totalEdges xs + totalEdges ys := by
  induction xs with
  | nil => simp
  | cons x xs ih => simp [ih, Nat.add_assoc]

@[simp] theorem totalEdges_dly (p : Params) (t : Nat) : totalEdges (dly p t) = p.cyc t := by
  unfold dly Params.cyc
  split
  · next h => simp [h]
  · simp [MicroOp.edges]

@[simp] theorem totalEdges_nib (p : Params) (n : Nibble) (r : Bool) : totalEdges (nib p n r) = p.nibbleCycles := by
  simp [nib, MicroOp.edges, Params.nibbleCycles, Params.strobeCycles, Params.cyc]
  omega

theorem framed_append (p : Params) (xs ys : List MicroOp) (hx : framed p xs = true) (hr : .rdCap ∉ xs) (hy : framed p ys = true) :
    framed p (xs ++ ys) = true := by
  induction xs using framed.induct with
  | case1 => simpa using hy
  | case2 => simp at hr
  | case3 ms ih => 
    simp only [framed, List.cons_append] at *
    exact ih hx (by simp_all)
  | case4 c ms ih =>
    simp only [framed, List.cons_append, Bool.and_eq_true, decide_eq_true_eq] at *
    exact ⟨hx.1, ih hx.2 (by simp_all)⟩
  | case5 n b c ms ih =>
    simp only [framed, List.cons_append, Bool.and_eq_true, decide_eq_true_eq] at *
    exact ⟨hx.1, ih hx.2 (by simp_all)⟩
  | case6 => simp_all [framed]

end Sys2Proof.Machine
end

