-- ==== Sys2Proof/Laws/State.lean ====
section
/-!
SUPPORT. One lemma per field per named update of the state, so that no later proof unfolds an update.
-/

namespace Sys2Proof.Machine

/-! Raising an error (R200). -/

@[simp] theorem raiseError_illegal_busy (s : State) : (raiseError .illegalRequest s).busy = s.busy := rfl
@[simp] theorem raiseError_illegal_pinsCfg (s : State) : (raiseError .illegalRequest s).pinsCfg = s.pinsCfg := rfl
@[simp] theorem raiseError_illegal_dQ (s : State) : (raiseError .illegalRequest s).dQ = s.dQ := rfl
@[simp] theorem raiseError_illegal_rsQ (s : State) : (raiseError .illegalRequest s).rsQ = s.rsQ := rfl
@[simp] theorem raiseError_illegal_eQ (s : State) : (raiseError .illegalRequest s).eQ = s.eQ := rfl
@[simp] theorem raiseError_illegal_errIllegal (s : State) : (raiseError .illegalRequest s).errIllegal = true := rfl
@[simp] theorem raiseError_illegal_errNopins (s : State) : (raiseError .illegalRequest s).errNopins = s.errNopins := rfl
@[simp] theorem raiseError_illegal_rqOp (s : State) : (raiseError .illegalRequest s).rqOp = s.rqOp := rfl
@[simp] theorem raiseError_illegal_rqArg (s : State) : (raiseError .illegalRequest s).rqArg = s.rqArg := rfl
@[simp] theorem raiseError_illegal_seq (s : State) : (raiseError .illegalRequest s).seq = s.seq := rfl
@[simp] theorem raiseError_illegal_strBase (s : State) : (raiseError .illegalRequest s).strBase = s.strBase := rfl
@[simp] theorem raiseError_illegal_strIdx (s : State) : (raiseError .illegalRequest s).strIdx = s.strIdx := rfl
@[simp] theorem raiseError_illegal_strByte (s : State) : (raiseError .illegalRequest s).strByte = s.strByte := rfl
@[simp] theorem raiseError_illegal_memAddrQ (s : State) : (raiseError .illegalRequest s).memAddrQ = s.memAddrQ := rfl
@[simp] theorem raiseError_illegal_memRdQ (s : State) : (raiseError .illegalRequest s).memRdQ = s.memRdQ := rfl
@[simp] theorem raiseError_illegal_mem (s : State) : (raiseError .illegalRequest s).mem = s.mem := rfl
@[simp] theorem raiseError_illegal_inputs (s : State) : (raiseError .illegalRequest s).inputs = s.inputs := rfl
@[simp] theorem raiseError_illegal_overwritten (s : State) : (raiseError .illegalRequest s).overwritten = s.overwritten := rfl
@[simp] theorem raiseError_illegal_draws (s : State) : (raiseError .illegalRequest s).draws = s.draws := rfl
@[simp] theorem raiseError_illegal_cycle (s : State) : (raiseError .illegalRequest s).cycle = s.cycle := rfl
@[simp] theorem raiseError_illegal_latches (s : State) : (raiseError .illegalRequest s).latches = s.latches := rfl
@[simp] theorem raiseError_illegal_reads (s : State) : (raiseError .illegalRequest s).reads = s.reads := rfl

@[simp] theorem raiseError_nopins_busy (s : State) : (raiseError .transferBeforePinConfig s).busy = s.busy := rfl
@[simp] theorem raiseError_nopins_pinsCfg (s : State) : (raiseError .transferBeforePinConfig s).pinsCfg = s.pinsCfg := rfl
@[simp] theorem raiseError_nopins_dQ (s : State) : (raiseError .transferBeforePinConfig s).dQ = s.dQ := rfl
@[simp] theorem raiseError_nopins_rsQ (s : State) : (raiseError .transferBeforePinConfig s).rsQ = s.rsQ := rfl
@[simp] theorem raiseError_nopins_eQ (s : State) : (raiseError .transferBeforePinConfig s).eQ = s.eQ := rfl
@[simp] theorem raiseError_nopins_errIllegal (s : State) : (raiseError .transferBeforePinConfig s).errIllegal = s.errIllegal := rfl
@[simp] theorem raiseError_nopins_errNopins (s : State) : (raiseError .transferBeforePinConfig s).errNopins = true := rfl
@[simp] theorem raiseError_nopins_rqOp (s : State) : (raiseError .transferBeforePinConfig s).rqOp = s.rqOp := rfl
@[simp] theorem raiseError_nopins_rqArg (s : State) : (raiseError .transferBeforePinConfig s).rqArg = s.rqArg := rfl
@[simp] theorem raiseError_nopins_seq (s : State) : (raiseError .transferBeforePinConfig s).seq = s.seq := rfl
@[simp] theorem raiseError_nopins_strBase (s : State) : (raiseError .transferBeforePinConfig s).strBase = s.strBase := rfl
@[simp] theorem raiseError_nopins_strIdx (s : State) : (raiseError .transferBeforePinConfig s).strIdx = s.strIdx := rfl
@[simp] theorem raiseError_nopins_strByte (s : State) : (raiseError .transferBeforePinConfig s).strByte = s.strByte := rfl
@[simp] theorem raiseError_nopins_memAddrQ (s : State) : (raiseError .transferBeforePinConfig s).memAddrQ = s.memAddrQ := rfl
@[simp] theorem raiseError_nopins_memRdQ (s : State) : (raiseError .transferBeforePinConfig s).memRdQ = s.memRdQ := rfl
@[simp] theorem raiseError_nopins_mem (s : State) : (raiseError .transferBeforePinConfig s).mem = s.mem := rfl
@[simp] theorem raiseError_nopins_inputs (s : State) : (raiseError .transferBeforePinConfig s).inputs = s.inputs := rfl
@[simp] theorem raiseError_nopins_overwritten (s : State) : (raiseError .transferBeforePinConfig s).overwritten = s.overwritten := rfl
@[simp] theorem raiseError_nopins_draws (s : State) : (raiseError .transferBeforePinConfig s).draws = s.draws := rfl
@[simp] theorem raiseError_nopins_cycle (s : State) : (raiseError .transferBeforePinConfig s).cycle = s.cycle := rfl
@[simp] theorem raiseError_nopins_latches (s : State) : (raiseError .transferBeforePinConfig s).latches = s.latches := rfl
@[simp] theorem raiseError_nopins_reads (s : State) : (raiseError .transferBeforePinConfig s).reads = s.reads := rfl

/-! The pin check of a transfer request (R202). -/

@[simp] theorem checkPins_busy (s : State) : (checkPins s).busy = s.busy := by
  unfold checkPins; split <;> simp_all
@[simp] theorem checkPins_pinsCfg (s : State) : (checkPins s).pinsCfg = s.pinsCfg := by
  unfold checkPins; split <;> simp_all
@[simp] theorem checkPins_dQ (s : State) : (checkPins s).dQ = s.dQ := by
  unfold checkPins; split <;> simp_all
@[simp] theorem checkPins_rsQ (s : State) : (checkPins s).rsQ = s.rsQ := by
  unfold checkPins; split <;> simp_all
@[simp] theorem checkPins_eQ (s : State) : (checkPins s).eQ = s.eQ := by
  unfold checkPins; split <;> simp_all
@[simp] theorem checkPins_errIllegal (s : State) : (checkPins s).errIllegal = s.errIllegal := by
  unfold checkPins; split <;> simp_all
@[simp] theorem checkPins_errNopins (s : State) : (checkPins s).errNopins = (s.errNopins || !s.pinsCfg) := by
  unfold checkPins; split <;> simp_all
@[simp] theorem checkPins_rqOp (s : State) : (checkPins s).rqOp = s.rqOp := by
  unfold checkPins; split <;> simp_all
@[simp] theorem checkPins_rqArg (s : State) : (checkPins s).rqArg = s.rqArg := by
  unfold checkPins; split <;> simp_all
@[simp] theorem checkPins_seq (s : State) : (checkPins s).seq = s.seq := by
  unfold checkPins; split <;> simp_all
@[simp] theorem checkPins_strBase (s : State) : (checkPins s).strBase = s.strBase := by
  unfold checkPins; split <;> simp_all
@[simp] theorem checkPins_strIdx (s : State) : (checkPins s).strIdx = s.strIdx := by
  unfold checkPins; split <;> simp_all
@[simp] theorem checkPins_strByte (s : State) : (checkPins s).strByte = s.strByte := by
  unfold checkPins; split <;> simp_all
@[simp] theorem checkPins_memAddrQ (s : State) : (checkPins s).memAddrQ = s.memAddrQ := by
  unfold checkPins; split <;> simp_all
@[simp] theorem checkPins_memRdQ (s : State) : (checkPins s).memRdQ = s.memRdQ := by
  unfold checkPins; split <;> simp_all
@[simp] theorem checkPins_mem (s : State) : (checkPins s).mem = s.mem := by
  unfold checkPins; split <;> simp_all
@[simp] theorem checkPins_inputs (s : State) : (checkPins s).inputs = s.inputs := by
  unfold checkPins; split <;> simp_all
@[simp] theorem checkPins_overwritten (s : State) : (checkPins s).overwritten = s.overwritten := by
  unfold checkPins; split <;> simp_all
@[simp] theorem checkPins_draws (s : State) : (checkPins s).draws = s.draws := by
  unfold checkPins; split <;> simp_all
@[simp] theorem checkPins_cycle (s : State) : (checkPins s).cycle = s.cycle := by
  unfold checkPins; split <;> simp_all
@[simp] theorem checkPins_latches (s : State) : (checkPins s).latches = s.latches := by
  unfold checkPins; split <;> simp_all
@[simp] theorem checkPins_reads (s : State) : (checkPins s).reads = s.reads := by
  unfold checkPins; split <;> simp_all

/-! Accepting a request (R108). -/

@[simp] theorem startOp_busy (i : Instr) (ms : List MicroOp) (s : State) : (startOp i ms s).busy = true := rfl
@[simp] theorem startOp_pinsCfg (i : Instr) (ms : List MicroOp) (s : State) : (startOp i ms s).pinsCfg = s.pinsCfg := rfl
@[simp] theorem startOp_dQ (i : Instr) (ms : List MicroOp) (s : State) : (startOp i ms s).dQ = s.dQ := rfl
@[simp] theorem startOp_rsQ (i : Instr) (ms : List MicroOp) (s : State) : (startOp i ms s).rsQ = s.rsQ := rfl
@[simp] theorem startOp_eQ (i : Instr) (ms : List MicroOp) (s : State) : (startOp i ms s).eQ = s.eQ := rfl
@[simp] theorem startOp_errIllegal (i : Instr) (ms : List MicroOp) (s : State) : (startOp i ms s).errIllegal = s.errIllegal := rfl
@[simp] theorem startOp_errNopins (i : Instr) (ms : List MicroOp) (s : State) : (startOp i ms s).errNopins = s.errNopins := rfl
@[simp] theorem startOp_rqOp (i : Instr) (ms : List MicroOp) (s : State) : (startOp i ms s).rqOp = opField (encode i) := rfl
@[simp] theorem startOp_rqArg (i : Instr) (ms : List MicroOp) (s : State) : (startOp i ms s).rqArg = argField (encode i) := rfl
@[simp] theorem startOp_seq (i : Instr) (ms : List MicroOp) (s : State) : (startOp i ms s).seq = ms := rfl
@[simp] theorem startOp_strBase (i : Instr) (ms : List MicroOp) (s : State) : (startOp i ms s).strBase = s.strBase := rfl
@[simp] theorem startOp_strIdx (i : Instr) (ms : List MicroOp) (s : State) : (startOp i ms s).strIdx = s.strIdx := rfl
@[simp] theorem startOp_strByte (i : Instr) (ms : List MicroOp) (s : State) : (startOp i ms s).strByte = s.strByte := rfl
@[simp] theorem startOp_memAddrQ (i : Instr) (ms : List MicroOp) (s : State) : (startOp i ms s).memAddrQ = s.memAddrQ := rfl
@[simp] theorem startOp_memRdQ (i : Instr) (ms : List MicroOp) (s : State) : (startOp i ms s).memRdQ = s.memRdQ := rfl
@[simp] theorem startOp_mem (i : Instr) (ms : List MicroOp) (s : State) : (startOp i ms s).mem = s.mem := rfl
@[simp] theorem startOp_inputs (i : Instr) (ms : List MicroOp) (s : State) : (startOp i ms s).inputs = s.inputs := rfl
@[simp] theorem startOp_overwritten (i : Instr) (ms : List MicroOp) (s : State) : (startOp i ms s).overwritten = s.overwritten := rfl
@[simp] theorem startOp_draws (i : Instr) (ms : List MicroOp) (s : State) : (startOp i ms s).draws = s.draws := rfl
@[simp] theorem startOp_cycle (i : Instr) (ms : List MicroOp) (s : State) : (startOp i ms s).cycle = s.cycle := rfl
@[simp] theorem startOp_latches (i : Instr) (ms : List MicroOp) (s : State) : (startOp i ms s).latches = s.latches := rfl
@[simp] theorem startOp_reads (i : Instr) (ms : List MicroOp) (s : State) : (startOp i ms s).reads = s.reads := rfl

@[simp] theorem startString_busy (a : Half) (s : State) : (startString a s).busy = s.busy := rfl
@[simp] theorem startString_pinsCfg (a : Half) (s : State) : (startString a s).pinsCfg = s.pinsCfg := rfl
@[simp] theorem startString_dQ (a : Half) (s : State) : (startString a s).dQ = s.dQ := rfl
@[simp] theorem startString_rsQ (a : Half) (s : State) : (startString a s).rsQ = s.rsQ := rfl
@[simp] theorem startString_eQ (a : Half) (s : State) : (startString a s).eQ = s.eQ := rfl
@[simp] theorem startString_errIllegal (a : Half) (s : State) : (startString a s).errIllegal = s.errIllegal := rfl
@[simp] theorem startString_errNopins (a : Half) (s : State) : (startString a s).errNopins = s.errNopins := rfl
@[simp] theorem startString_rqOp (a : Half) (s : State) : (startString a s).rqOp = s.rqOp := rfl
@[simp] theorem startString_rqArg (a : Half) (s : State) : (startString a s).rqArg = s.rqArg := rfl
@[simp] theorem startString_seq (a : Half) (s : State) : (startString a s).seq = s.seq := rfl
@[simp] theorem startString_strBase (a : Half) (s : State) : (startString a s).strBase = a := rfl
@[simp] theorem startString_strIdx (a : Half) (s : State) : (startString a s).strIdx = 0 := rfl
@[simp] theorem startString_strByte (a : Half) (s : State) : (startString a s).strByte = s.strByte := rfl
@[simp] theorem startString_memAddrQ (a : Half) (s : State) : (startString a s).memAddrQ = s.memAddrQ := rfl
@[simp] theorem startString_memRdQ (a : Half) (s : State) : (startString a s).memRdQ = s.memRdQ := rfl
@[simp] theorem startString_mem (a : Half) (s : State) : (startString a s).mem = s.mem := rfl
@[simp] theorem startString_inputs (a : Half) (s : State) : (startString a s).inputs = s.inputs := rfl
@[simp] theorem startString_overwritten (a : Half) (s : State) : (startString a s).overwritten = s.overwritten := rfl
@[simp] theorem startString_draws (a : Half) (s : State) : (startString a s).draws = s.draws := rfl
@[simp] theorem startString_cycle (a : Half) (s : State) : (startString a s).cycle = s.cycle := rfl
@[simp] theorem startString_latches (a : Half) (s : State) : (startString a s).latches = s.latches := rfl
@[simp] theorem startString_reads (a : Half) (s : State) : (startString a s).reads = s.reads := rfl

/-! The reset edge (R230). -/

@[simp] theorem resetBlock_busy (s : State) : (resetBlock s).busy = State.reset.busy := rfl
@[simp] theorem resetBlock_pinsCfg (s : State) : (resetBlock s).pinsCfg = State.reset.pinsCfg := rfl
@[simp] theorem resetBlock_dQ (s : State) : (resetBlock s).dQ = State.reset.dQ := rfl
@[simp] theorem resetBlock_rsQ (s : State) : (resetBlock s).rsQ = State.reset.rsQ := rfl
@[simp] theorem resetBlock_eQ (s : State) : (resetBlock s).eQ = State.reset.eQ := rfl
@[simp] theorem resetBlock_errIllegal (s : State) : (resetBlock s).errIllegal = State.reset.errIllegal := rfl
@[simp] theorem resetBlock_errNopins (s : State) : (resetBlock s).errNopins = State.reset.errNopins := rfl
@[simp] theorem resetBlock_rqOp (s : State) : (resetBlock s).rqOp = State.reset.rqOp := rfl
@[simp] theorem resetBlock_rqArg (s : State) : (resetBlock s).rqArg = State.reset.rqArg := rfl
@[simp] theorem resetBlock_seq (s : State) : (resetBlock s).seq = State.reset.seq := rfl
@[simp] theorem resetBlock_strBase (s : State) : (resetBlock s).strBase = State.reset.strBase := rfl
@[simp] theorem resetBlock_strIdx (s : State) : (resetBlock s).strIdx = State.reset.strIdx := rfl
@[simp] theorem resetBlock_strByte (s : State) : (resetBlock s).strByte = State.reset.strByte := rfl
@[simp] theorem resetBlock_memAddrQ (s : State) : (resetBlock s).memAddrQ = State.reset.memAddrQ := rfl
@[simp] theorem resetBlock_memRdQ (s : State) : (resetBlock s).memRdQ = State.reset.memRdQ := rfl
@[simp] theorem resetBlock_mem (s : State) : (resetBlock s).mem = s.mem := rfl
@[simp] theorem resetBlock_inputs (s : State) : (resetBlock s).inputs = s.inputs := rfl
@[simp] theorem resetBlock_overwritten (s : State) : (resetBlock s).overwritten = State.reset.overwritten := rfl
@[simp] theorem resetBlock_draws (s : State) : (resetBlock s).draws = s.draws := rfl
@[simp] theorem resetBlock_cycle (s : State) : (resetBlock s).cycle = s.cycle := rfl
@[simp] theorem resetBlock_latches (s : State) : (resetBlock s).latches = s.latches := rfl
@[simp] theorem resetBlock_reads (s : State) : (resetBlock s).reads = s.reads := rfl

/-! Other agents' writes (R55). -/

@[simp] theorem writeByAgent_busy (w : Half × Byte) (s : State) : (writeByAgent s w).busy = s.busy := rfl
@[simp] theorem writeByAgent_pinsCfg (w : Half × Byte) (s : State) : (writeByAgent s w).pinsCfg = s.pinsCfg := rfl
@[simp] theorem writeByAgent_dQ (w : Half × Byte) (s : State) : (writeByAgent s w).dQ = s.dQ := rfl
@[simp] theorem writeByAgent_rsQ (w : Half × Byte) (s : State) : (writeByAgent s w).rsQ = s.rsQ := rfl
@[simp] theorem writeByAgent_eQ (w : Half × Byte) (s : State) : (writeByAgent s w).eQ = s.eQ := rfl
@[simp] theorem writeByAgent_errIllegal (w : Half × Byte) (s : State) : (writeByAgent s w).errIllegal = s.errIllegal := rfl
@[simp] theorem writeByAgent_errNopins (w : Half × Byte) (s : State) : (writeByAgent s w).errNopins = s.errNopins := rfl
@[simp] theorem writeByAgent_rqOp (w : Half × Byte) (s : State) : (writeByAgent s w).rqOp = s.rqOp := rfl
@[simp] theorem writeByAgent_rqArg (w : Half × Byte) (s : State) : (writeByAgent s w).rqArg = s.rqArg := rfl
@[simp] theorem writeByAgent_seq (w : Half × Byte) (s : State) : (writeByAgent s w).seq = s.seq := rfl
@[simp] theorem writeByAgent_strBase (w : Half × Byte) (s : State) : (writeByAgent s w).strBase = s.strBase := rfl
@[simp] theorem writeByAgent_strIdx (w : Half × Byte) (s : State) : (writeByAgent s w).strIdx = s.strIdx := rfl
@[simp] theorem writeByAgent_strByte (w : Half × Byte) (s : State) : (writeByAgent s w).strByte = s.strByte := rfl
@[simp] theorem writeByAgent_memAddrQ (w : Half × Byte) (s : State) : (writeByAgent s w).memAddrQ = s.memAddrQ := rfl
@[simp] theorem writeByAgent_memRdQ (w : Half × Byte) (s : State) : (writeByAgent s w).memRdQ = s.memRdQ := rfl
@[simp] theorem writeByAgent_mem (w : Half × Byte) (s : State) : (writeByAgent s w).mem = s.mem.write w.1.toNat w.2 := rfl
@[simp] theorem writeByAgent_inputs (w : Half × Byte) (s : State) : (writeByAgent s w).inputs = s.inputs := rfl
@[simp] theorem writeByAgent_overwritten (w : Half × Byte) (s : State) : (writeByAgent s w).overwritten = (w.1, s.mem.byteAt? w.1.toNat) :: s.overwritten := rfl
@[simp] theorem writeByAgent_draws (w : Half × Byte) (s : State) : (writeByAgent s w).draws = s.draws := rfl
@[simp] theorem writeByAgent_cycle (w : Half × Byte) (s : State) : (writeByAgent s w).cycle = s.cycle := rfl
@[simp] theorem writeByAgent_latches (w : Half × Byte) (s : State) : (writeByAgent s w).latches = s.latches := rfl
@[simp] theorem writeByAgent_reads (w : Half × Byte) (s : State) : (writeByAgent s w).reads = s.reads := rfl

theorem foldl_writeByAgent_busy (ws : List (Half × Byte)) (s : State) :
    (ws.foldl writeByAgent s).busy = s.busy := by
  induction ws generalizing s with
  | nil => rfl
  | cons w ws ih => simp [ih]
theorem foldl_writeByAgent_pinsCfg (ws : List (Half × Byte)) (s : State) :
    (ws.foldl writeByAgent s).pinsCfg = s.pinsCfg := by
  induction ws generalizing s with
  | nil => rfl
  | cons w ws ih => simp [ih]
theorem foldl_writeByAgent_dQ (ws : List (Half × Byte)) (s : State) :
    (ws.foldl writeByAgent s).dQ = s.dQ := by
  induction ws generalizing s with
  | nil => rfl
  | cons w ws ih => simp [ih]
theorem foldl_writeByAgent_rsQ (ws : List (Half × Byte)) (s : State) :
    (ws.foldl writeByAgent s).rsQ = s.rsQ := by
  induction ws generalizing s with
  | nil => rfl
  | cons w ws ih => simp [ih]
theorem foldl_writeByAgent_eQ (ws : List (Half × Byte)) (s : State) :
    (ws.foldl writeByAgent s).eQ = s.eQ := by
  induction ws generalizing s with
  | nil => rfl
  | cons w ws ih => simp [ih]
theorem foldl_writeByAgent_errIllegal (ws : List (Half × Byte)) (s : State) :
    (ws.foldl writeByAgent s).errIllegal = s.errIllegal := by
  induction ws generalizing s with
  | nil => rfl
  | cons w ws ih => simp [ih]
theorem foldl_writeByAgent_errNopins (ws : List (Half × Byte)) (s : State) :
    (ws.foldl writeByAgent s).errNopins = s.errNopins := by
  induction ws generalizing s with
  | nil => rfl
  | cons w ws ih => simp [ih]
theorem foldl_writeByAgent_rqOp (ws : List (Half × Byte)) (s : State) :
    (ws.foldl writeByAgent s).rqOp = s.rqOp := by
  induction ws generalizing s with
  | nil => rfl
  | cons w ws ih => simp [ih]
theorem foldl_writeByAgent_rqArg (ws : List (Half × Byte)) (s : State) :
    (ws.foldl writeByAgent s).rqArg = s.rqArg := by
  induction ws generalizing s with
  | nil => rfl
  | cons w ws ih => simp [ih]
theorem foldl_writeByAgent_seq (ws : List (Half × Byte)) (s : State) :
    (ws.foldl writeByAgent s).seq = s.seq := by
  induction ws generalizing s with
  | nil => rfl
  | cons w ws ih => simp [ih]
theorem foldl_writeByAgent_strBase (ws : List (Half × Byte)) (s : State) :
    (ws.foldl writeByAgent s).strBase = s.strBase := by
  induction ws generalizing s with
  | nil => rfl
  | cons w ws ih => simp [ih]
theorem foldl_writeByAgent_strIdx (ws : List (Half × Byte)) (s : State) :
    (ws.foldl writeByAgent s).strIdx = s.strIdx := by
  induction ws generalizing s with
  | nil => rfl
  | cons w ws ih => simp [ih]
theorem foldl_writeByAgent_strByte (ws : List (Half × Byte)) (s : State) :
    (ws.foldl writeByAgent s).strByte = s.strByte := by
  induction ws generalizing s with
  | nil => rfl
  | cons w ws ih => simp [ih]
theorem foldl_writeByAgent_memAddrQ (ws : List (Half × Byte)) (s : State) :
    (ws.foldl writeByAgent s).memAddrQ = s.memAddrQ := by
  induction ws generalizing s with
  | nil => rfl
  | cons w ws ih => simp [ih]
theorem foldl_writeByAgent_memRdQ (ws : List (Half × Byte)) (s : State) :
    (ws.foldl writeByAgent s).memRdQ = s.memRdQ := by
  induction ws generalizing s with
  | nil => rfl
  | cons w ws ih => simp [ih]
theorem foldl_writeByAgent_inputs (ws : List (Half × Byte)) (s : State) :
    (ws.foldl writeByAgent s).inputs = s.inputs := by
  induction ws generalizing s with
  | nil => rfl
  | cons w ws ih => simp [ih]
theorem foldl_writeByAgent_draws (ws : List (Half × Byte)) (s : State) :
    (ws.foldl writeByAgent s).draws = s.draws := by
  induction ws generalizing s with
  | nil => rfl
  | cons w ws ih => simp [ih]
theorem foldl_writeByAgent_cycle (ws : List (Half × Byte)) (s : State) :
    (ws.foldl writeByAgent s).cycle = s.cycle := by
  induction ws generalizing s with
  | nil => rfl
  | cons w ws ih => simp [ih]
theorem foldl_writeByAgent_latches (ws : List (Half × Byte)) (s : State) :
    (ws.foldl writeByAgent s).latches = s.latches := by
  induction ws generalizing s with
  | nil => rfl
  | cons w ws ih => simp [ih]
theorem foldl_writeByAgent_reads (ws : List (Half × Byte)) (s : State) :
    (ws.foldl writeByAgent s).reads = s.reads := by
  induction ws generalizing s with
  | nil => rfl
  | cons w ws ih => simp [ih]

@[simp] theorem agentWrites_busy (e : Edge) (s : State) : (agentWrites e s).busy = s.busy := by
  simp [agentWrites, foldl_writeByAgent_busy]
@[simp] theorem agentWrites_pinsCfg (e : Edge) (s : State) : (agentWrites e s).pinsCfg = s.pinsCfg := by
  simp [agentWrites, foldl_writeByAgent_pinsCfg]
@[simp] theorem agentWrites_dQ (e : Edge) (s : State) : (agentWrites e s).dQ = s.dQ := by
  simp [agentWrites, foldl_writeByAgent_dQ]
@[simp] theorem agentWrites_rsQ (e : Edge) (s : State) : (agentWrites e s).rsQ = s.rsQ := by
  simp [agentWrites, foldl_writeByAgent_rsQ]
@[simp] theorem agentWrites_eQ (e : Edge) (s : State) : (agentWrites e s).eQ = s.eQ := by
  simp [agentWrites, foldl_writeByAgent_eQ]
@[simp] theorem agentWrites_errIllegal (e : Edge) (s : State) : (agentWrites e s).errIllegal = s.errIllegal := by
  simp [agentWrites, foldl_writeByAgent_errIllegal]
@[simp] theorem agentWrites_errNopins (e : Edge) (s : State) : (agentWrites e s).errNopins = s.errNopins := by
  simp [agentWrites, foldl_writeByAgent_errNopins]
@[simp] theorem agentWrites_rqOp (e : Edge) (s : State) : (agentWrites e s).rqOp = s.rqOp := by
  simp [agentWrites, foldl_writeByAgent_rqOp]
@[simp] theorem agentWrites_rqArg (e : Edge) (s : State) : (agentWrites e s).rqArg = s.rqArg := by
  simp [agentWrites, foldl_writeByAgent_rqArg]
@[simp] theorem agentWrites_seq (e : Edge) (s : State) : (agentWrites e s).seq = s.seq := by
  simp [agentWrites, foldl_writeByAgent_seq]
@[simp] theorem agentWrites_strBase (e : Edge) (s : State) : (agentWrites e s).strBase = s.strBase := by
  simp [agentWrites, foldl_writeByAgent_strBase]
@[simp] theorem agentWrites_strIdx (e : Edge) (s : State) : (agentWrites e s).strIdx = s.strIdx := by
  simp [agentWrites, foldl_writeByAgent_strIdx]
@[simp] theorem agentWrites_strByte (e : Edge) (s : State) : (agentWrites e s).strByte = s.strByte := by
  simp [agentWrites, foldl_writeByAgent_strByte]
@[simp] theorem agentWrites_memAddrQ (e : Edge) (s : State) : (agentWrites e s).memAddrQ = s.memAddrQ := by
  simp [agentWrites, foldl_writeByAgent_memAddrQ]
@[simp] theorem agentWrites_memRdQ (e : Edge) (s : State) : (agentWrites e s).memRdQ = s.memRdQ := by
  simp [agentWrites, foldl_writeByAgent_memRdQ]
@[simp] theorem agentWrites_inputs (e : Edge) (s : State) : (agentWrites e s).inputs = s.inputs := by
  simp [agentWrites, foldl_writeByAgent_inputs]
@[simp] theorem agentWrites_draws (e : Edge) (s : State) : (agentWrites e s).draws = s.draws := by
  simp [agentWrites, foldl_writeByAgent_draws]
@[simp] theorem agentWrites_cycle (e : Edge) (s : State) : (agentWrites e s).cycle = s.cycle := by
  simp [agentWrites, foldl_writeByAgent_cycle]
@[simp] theorem agentWrites_latches (e : Edge) (s : State) : (agentWrites e s).latches = s.latches := by
  simp [agentWrites, foldl_writeByAgent_latches]
@[simp] theorem agentWrites_reads (e : Edge) (s : State) : (agentWrites e s).reads = s.reads := by
  simp [agentWrites, foldl_writeByAgent_reads]

/-! The passing of an edge. -/

@[simp] theorem passEdge_busy (s : State) : (passEdge s).busy = s.busy := rfl
@[simp] theorem passEdge_pinsCfg (s : State) : (passEdge s).pinsCfg = s.pinsCfg := rfl
@[simp] theorem passEdge_dQ (s : State) : (passEdge s).dQ = s.dQ := rfl
@[simp] theorem passEdge_rsQ (s : State) : (passEdge s).rsQ = s.rsQ := rfl
@[simp] theorem passEdge_eQ (s : State) : (passEdge s).eQ = s.eQ := rfl
@[simp] theorem passEdge_errIllegal (s : State) : (passEdge s).errIllegal = s.errIllegal := rfl
@[simp] theorem passEdge_errNopins (s : State) : (passEdge s).errNopins = s.errNopins := rfl
@[simp] theorem passEdge_rqOp (s : State) : (passEdge s).rqOp = s.rqOp := rfl
@[simp] theorem passEdge_rqArg (s : State) : (passEdge s).rqArg = s.rqArg := rfl
@[simp] theorem passEdge_seq (s : State) : (passEdge s).seq = s.seq := rfl
@[simp] theorem passEdge_strBase (s : State) : (passEdge s).strBase = s.strBase := rfl
@[simp] theorem passEdge_strIdx (s : State) : (passEdge s).strIdx = s.strIdx := rfl
@[simp] theorem passEdge_strByte (s : State) : (passEdge s).strByte = s.strByte := rfl
@[simp] theorem passEdge_memAddrQ (s : State) : (passEdge s).memAddrQ = s.memAddrQ := rfl
@[simp] theorem passEdge_memRdQ (s : State) : (passEdge s).memRdQ = s.memRdQ := rfl
@[simp] theorem passEdge_mem (s : State) : (passEdge s).mem = s.mem := rfl
@[simp] theorem passEdge_inputs (s : State) : (passEdge s).inputs = s.inputs.tail := rfl
@[simp] theorem passEdge_overwritten (s : State) : (passEdge s).overwritten = s.overwritten := rfl
@[simp] theorem passEdge_draws (s : State) : (passEdge s).draws = s.draws := rfl
@[simp] theorem passEdge_cycle (s : State) : (passEdge s).cycle = s.cycle + 1 := rfl
@[simp] theorem passEdge_latches (s : State) : (passEdge s).latches = s.latches := rfl
@[simp] theorem passEdge_reads (s : State) : (passEdge s).reads = s.reads := rfl

/-! Completion (R103) and the latch event (R107). -/

@[simp] theorem settle_busy (s : State) : (settle s).busy = (s.busy && !s.seq.isEmpty) := by
  unfold settle; split <;> simp_all
@[simp] theorem settle_pinsCfg (s : State) : (settle s).pinsCfg = s.pinsCfg := by
  unfold settle; split <;> simp_all
@[simp] theorem settle_dQ (s : State) : (settle s).dQ = s.dQ := by
  unfold settle; split <;> simp_all
@[simp] theorem settle_rsQ (s : State) : (settle s).rsQ = s.rsQ := by
  unfold settle; split <;> simp_all
@[simp] theorem settle_eQ (s : State) : (settle s).eQ = s.eQ := by
  unfold settle; split <;> simp_all
@[simp] theorem settle_errIllegal (s : State) : (settle s).errIllegal = s.errIllegal := by
  unfold settle; split <;> simp_all
@[simp] theorem settle_errNopins (s : State) : (settle s).errNopins = s.errNopins := by
  unfold settle; split <;> simp_all
@[simp] theorem settle_rqOp (s : State) : (settle s).rqOp = s.rqOp := by
  unfold settle; split <;> simp_all
@[simp] theorem settle_rqArg (s : State) : (settle s).rqArg = s.rqArg := by
  unfold settle; split <;> simp_all
@[simp] theorem settle_seq (s : State) : (settle s).seq = s.seq := by
  unfold settle; split <;> simp_all
@[simp] theorem settle_strBase (s : State) : (settle s).strBase = s.strBase := by
  unfold settle; split <;> simp_all
@[simp] theorem settle_strIdx (s : State) : (settle s).strIdx = s.strIdx := by
  unfold settle; split <;> simp_all
@[simp] theorem settle_strByte (s : State) : (settle s).strByte = s.strByte := by
  unfold settle; split <;> simp_all
@[simp] theorem settle_memAddrQ (s : State) : (settle s).memAddrQ = s.memAddrQ := by
  unfold settle; split <;> simp_all
@[simp] theorem settle_memRdQ (s : State) : (settle s).memRdQ = s.memRdQ := by
  unfold settle; split <;> simp_all
@[simp] theorem settle_mem (s : State) : (settle s).mem = s.mem := by
  unfold settle; split <;> simp_all
@[simp] theorem settle_inputs (s : State) : (settle s).inputs = s.inputs := by
  unfold settle; split <;> simp_all
@[simp] theorem settle_overwritten (s : State) : (settle s).overwritten = s.overwritten := by
  unfold settle; split <;> simp_all
@[simp] theorem settle_draws (s : State) : (settle s).draws = s.draws := by
  unfold settle; split <;> simp_all
@[simp] theorem settle_cycle (s : State) : (settle s).cycle = s.cycle := by
  unfold settle; split <;> simp_all
@[simp] theorem settle_latches (s : State) : (settle s).latches = s.latches := by
  unfold settle; split <;> simp_all
@[simp] theorem settle_reads (s : State) : (settle s).reads = s.reads := by
  unfold settle; split <;> simp_all

@[simp] theorem emitLatch_busy (s : State) : (emitLatch s).busy = s.busy := by
  unfold emitLatch; split <;> simp_all
@[simp] theorem emitLatch_pinsCfg (s : State) : (emitLatch s).pinsCfg = s.pinsCfg := by
  unfold emitLatch; split <;> simp_all
@[simp] theorem emitLatch_dQ (s : State) : (emitLatch s).dQ = s.dQ := by
  unfold emitLatch; split <;> simp_all
@[simp] theorem emitLatch_rsQ (s : State) : (emitLatch s).rsQ = s.rsQ := by
  unfold emitLatch; split <;> simp_all
@[simp] theorem emitLatch_eQ (s : State) : (emitLatch s).eQ = s.eQ := by
  unfold emitLatch; split <;> simp_all
@[simp] theorem emitLatch_errIllegal (s : State) : (emitLatch s).errIllegal = s.errIllegal := by
  unfold emitLatch; split <;> simp_all
@[simp] theorem emitLatch_errNopins (s : State) : (emitLatch s).errNopins = s.errNopins := by
  unfold emitLatch; split <;> simp_all
@[simp] theorem emitLatch_rqOp (s : State) : (emitLatch s).rqOp = s.rqOp := by
  unfold emitLatch; split <;> simp_all
@[simp] theorem emitLatch_rqArg (s : State) : (emitLatch s).rqArg = s.rqArg := by
  unfold emitLatch; split <;> simp_all
@[simp] theorem emitLatch_seq (s : State) : (emitLatch s).seq = s.seq := by
  unfold emitLatch; split <;> simp_all
@[simp] theorem emitLatch_strBase (s : State) : (emitLatch s).strBase = s.strBase := by
  unfold emitLatch; split <;> simp_all
@[simp] theorem emitLatch_strIdx (s : State) : (emitLatch s).strIdx = s.strIdx := by
  unfold emitLatch; split <;> simp_all
@[simp] theorem emitLatch_strByte (s : State) : (emitLatch s).strByte = s.strByte := by
  unfold emitLatch; split <;> simp_all
@[simp] theorem emitLatch_memAddrQ (s : State) : (emitLatch s).memAddrQ = s.memAddrQ := by
  unfold emitLatch; split <;> simp_all
@[simp] theorem emitLatch_memRdQ (s : State) : (emitLatch s).memRdQ = s.memRdQ := by
  unfold emitLatch; split <;> simp_all
@[simp] theorem emitLatch_mem (s : State) : (emitLatch s).mem = s.mem := by
  unfold emitLatch; split <;> simp_all
@[simp] theorem emitLatch_inputs (s : State) : (emitLatch s).inputs = s.inputs := by
  unfold emitLatch; split <;> simp_all
@[simp] theorem emitLatch_overwritten (s : State) : (emitLatch s).overwritten = s.overwritten := by
  unfold emitLatch; split <;> simp_all
@[simp] theorem emitLatch_draws (s : State) : (emitLatch s).draws = s.draws := by
  unfold emitLatch; split <;> simp_all
@[simp] theorem emitLatch_cycle (s : State) : (emitLatch s).cycle = s.cycle := by
  unfold emitLatch; split <;> simp_all
@[simp] theorem emitLatch_latches (s : State) : (emitLatch s).latches = (s.latches ++ if s.pinsCfg then [⟨s.rsQ, s.dQ, s.cycle⟩] else []) := by
  unfold emitLatch; split <;> simp_all
@[simp] theorem emitLatch_reads (s : State) : (emitLatch s).reads = s.reads := by
  unfold emitLatch; split <;> simp_all

@[simp] theorem capture_busy (p : Params) (b : Byte) (s : State) : (capture p b s).busy = s.busy := rfl
@[simp] theorem capture_pinsCfg (p : Params) (b : Byte) (s : State) : (capture p b s).pinsCfg = s.pinsCfg := rfl
@[simp] theorem capture_dQ (p : Params) (b : Byte) (s : State) : (capture p b s).dQ = s.dQ := rfl
@[simp] theorem capture_rsQ (p : Params) (b : Byte) (s : State) : (capture p b s).rsQ = s.rsQ := rfl
@[simp] theorem capture_eQ (p : Params) (b : Byte) (s : State) : (capture p b s).eQ = s.eQ := rfl
@[simp] theorem capture_errIllegal (p : Params) (b : Byte) (s : State) : (capture p b s).errIllegal = s.errIllegal := rfl
@[simp] theorem capture_errNopins (p : Params) (b : Byte) (s : State) : (capture p b s).errNopins = s.errNopins := rfl
@[simp] theorem capture_rqOp (p : Params) (b : Byte) (s : State) : (capture p b s).rqOp = s.rqOp := rfl
@[simp] theorem capture_rqArg (p : Params) (b : Byte) (s : State) : (capture p b s).rqArg = s.rqArg := rfl
@[simp] theorem capture_seq (p : Params) (b : Byte) (s : State) : (capture p b s).seq = stringRest p b s.strIdx := rfl
@[simp] theorem capture_strBase (p : Params) (b : Byte) (s : State) : (capture p b s).strBase = s.strBase := rfl
@[simp] theorem capture_strIdx (p : Params) (b : Byte) (s : State) : (capture p b s).strIdx = (if b = 0x00#8 then s.strIdx else s.strIdx + 1) := rfl
@[simp] theorem capture_strByte (p : Params) (b : Byte) (s : State) : (capture p b s).strByte = b := rfl
@[simp] theorem capture_memAddrQ (p : Params) (b : Byte) (s : State) : (capture p b s).memAddrQ = s.memAddrQ := rfl
@[simp] theorem capture_memRdQ (p : Params) (b : Byte) (s : State) : (capture p b s).memRdQ = false := rfl
@[simp] theorem capture_mem (p : Params) (b : Byte) (s : State) : (capture p b s).mem = s.mem := rfl
@[simp] theorem capture_inputs (p : Params) (b : Byte) (s : State) : (capture p b s).inputs = s.inputs := rfl
@[simp] theorem capture_overwritten (p : Params) (b : Byte) (s : State) : (capture p b s).overwritten = s.overwritten := rfl
@[simp] theorem capture_draws (p : Params) (b : Byte) (s : State) : (capture p b s).draws = s.draws + 1 := rfl
@[simp] theorem capture_cycle (p : Params) (b : Byte) (s : State) : (capture p b s).cycle = s.cycle := rfl
@[simp] theorem capture_latches (p : Params) (b : Byte) (s : State) : (capture p b s).latches = s.latches := rfl
@[simp] theorem capture_reads (p : Params) (b : Byte) (s : State) : (capture p b s).reads = (if s.memRdQ then s.reads ++ [⟨s.memAddrQ, b, s.cycle⟩] else s.reads) := rfl

end Sys2Proof.Machine
end

