-- ==== Sys2Proof/Laws/Memory.lean ====
section
/-!
SUPPORT. The laws of the string memory (20_memory.md R50): a write is read back, leaves every other byte alone, and keeps the
canonical form; the other agents' writes keep it too.
-/

namespace Sys2Proof.Machine

@[simp] theorem Memory.byteAt?_nil (a : Nat) : Memory.byteAt? [] a = none := rfl

theorem Memory.byteAt?_write_same (m : Memory) (a : Nat) (v : Byte) : (m.write a v).byteAt? a = some v := by
  induction m with
  | nil => simp [Memory.write, Memory.byteAt?]
  | cons c m ih =>
    obtain ⟨b, w⟩ := c
    unfold Memory.write
    split
    · simp [Memory.byteAt?]
    · split
      · simp [Memory.byteAt?]
      · next h => simp [Memory.byteAt?, h, ih]

theorem Memory.byteAt?_write_other (m : Memory) {a b : Nat} (v : Byte) (h : b ≠ a) :
    (m.write a v).byteAt? b = m.byteAt? b := by
  induction m with
  | nil => simp [Memory.write, Memory.byteAt?, h]
  | cons c m ih =>
    obtain ⟨x, w⟩ := c
    unfold Memory.write
    split
    · simp [Memory.byteAt?, h]
    · split
      · next hx => simp [Memory.byteAt?, ← hx, h]
      · simp [Memory.byteAt?, ih]

theorem Memory.risesFrom_mono {lo lo' : Nat} (h : lo' ≤ lo) (m : Memory) (hm : m.risesFrom lo = true) :
    m.risesFrom lo' = true := by
  cases m with
  | nil => rfl
  | cons c m =>
    simp only [Memory.risesFrom, Bool.and_eq_true, decide_eq_true_eq] at hm ⊢
    exact ⟨⟨by omega, hm.1.2⟩, hm.2⟩

theorem Memory.risesFrom_write (m : Memory) {lo a : Nat} (v : Byte) (hlo : lo ≤ a) (ha : a < 2 ^ 16)
    (hm : m.risesFrom lo = true) : (m.write a v).risesFrom lo = true := by
  induction m generalizing lo with
  | nil => simpa [Memory.write, Memory.risesFrom] using ⟨hlo, ha⟩
  | cons c m ih =>
    obtain ⟨b, w⟩ := c
    simp only [Memory.risesFrom, Bool.and_eq_true, decide_eq_true_eq] at hm
    unfold Memory.write
    split
    · next h =>
      simp only [Memory.risesFrom, Bool.and_eq_true, decide_eq_true_eq]
      exact ⟨⟨hlo, ha⟩, ⟨by omega, hm.1.2⟩, hm.2⟩
    · split
      · next h =>
        subst h
        simp only [Memory.risesFrom, Bool.and_eq_true, decide_eq_true_eq]
        exact hm
      · next h₁ h₂ =>
        simp only [Memory.risesFrom, Bool.and_eq_true, decide_eq_true_eq]
        exact ⟨hm.1, ih (by omega) hm.2⟩

/-- Another agent's write of a byte of the 2^16-byte space keeps the canonical form. -/
theorem Memory.wf_write (m : Memory) (a : Half) (v : Byte) (hm : m.wf = true) : (m.write a.toNat v).wf = true :=
  Memory.risesFrom_write m v (Nat.zero_le _) a.isLt hm

theorem wf_foldl_writeByAgent (ws : List (Half × Byte)) (s : State) (h : s.mem.wf = true) :
    (ws.foldl writeByAgent s).mem.wf = true := by
  induction ws generalizing s with
  | nil => exact h
  | cons w ws ih => exact ih _ (Memory.wf_write _ _ _ h)

/-- The other agents' writes at an edge keep the canonical form. -/
theorem wf_agentWrites (e : Edge) (s : State) (h : s.mem.wf = true) : (agentWrites e s).mem.wf = true :=
  wf_foldl_writeByAgent _ _ h

/-- Without writes of other agents the memory is as it was. -/
theorem agentWrites_of_none (e : Edge) (s : State) (h : e.memWrites = []) :
    agentWrites e s = { s with overwritten := if s.busy then s.overwritten else [] } := by
  simp [agentWrites, h]

end Sys2Proof.Machine
end

