-- ==== Sys2Proof/Laws/PerInstr.lean ====
section
/-!
SUPPORT. Per-instruction laws: the format of each request's word (30_encoding.md R70, R73).
-/

namespace Sys2Proof.Laws.EncodeFormat

/-- R70, R73: the word of `i` has its operation code in bits 31 to 28, zero in the reserved field, and its operands below. -/
def Statement (i : Instr) : Prop :=
  opField (encode i) = opcode i ∧ rsvField (encode i) = 0#4 ∧ argField (encode i) = operands i ∧
  1#4 ≤ opcode i ∧ opcode i ≤ 9#4

theorem initPins : Statement .initPins := by simp [Statement, opcode]
theorem sendNibble (v : Byte) (r : Bool) : Statement (.sendNibble v r) := by simp [Statement, opcode]
theorem sendCmd4 (v : Byte) (t : Half) : Statement (.sendCmd4 v t) := by simp [Statement, opcode]
theorem sendCmd8 (c : Byte) (t : Half) : Statement (.sendCmd8 c t) := by simp [Statement, opcode]
theorem writeChar (h : Byte) : Statement (.writeChar h) := by simp [Statement, opcode]
theorem writeString (a : Half) : Statement (.writeString a) := by simp [Statement, opcode]
theorem moveCursor (x y : Byte) : Statement (.moveCursor x y) := by simp [Statement, opcode]
theorem initProcedure : Statement .initProcedure := by simp [Statement, opcode]
theorem init : Statement .init := by simp [Statement, opcode]

end Sys2Proof.Laws.EncodeFormat
end

