-- ==== Sys2Proof/Laws/Step.lean ====
section
/-!
SUPPORT. What each instruction and one edge can do, said once (40_pins_and_nibble.md R100, R101, R108), and runs of edges.
-/

namespace Sys2Proof.Machine

/-! The micro-ops (R100), each after its settling (R101, R103). -/

@[simp] theorem settle_cons (s : State) (m : MicroOp) (ms : List MicroOp) (h : s.seq = m :: ms) : settle s = s := by
  simp [settle, h]

@[simp] theorem settle_nil (s : State) (h : s.seq = []) : settle s = { s with busy := false } := by
  simp [settle, h]

theorem runEdge_cons (p : Params) (s : State) (m : MicroOp) (ms : List MicroOp) (h : s.seq = m :: ms) :
    runEdge p s = .next (settle (microEdge p m ms s)) := by
  simp [runEdge, h]

/-- What a micro-op's edge never changes: the errors, the request latch, the start of the string, the memory. -/
theorem microEdge_frame (p : Params) (m : MicroOp) (ms : List MicroOp) (s : State) :
    (microEdge p m ms s).errIllegal = s.errIllegal ∧ (microEdge p m ms s).errNopins = s.errNopins ∧
    (microEdge p m ms s).rqOp = s.rqOp ∧ (microEdge p m ms s).rqArg = s.rqArg ∧
    (microEdge p m ms s).strBase = s.strBase ∧ (microEdge p m ms s).mem = s.mem ∧
    (microEdge p m ms s).inputs = s.inputs ∧ (microEdge p m ms s).cycle = s.cycle ∧
    (microEdge p m ms s).busy = s.busy := by
  cases m <;> simp [microEdge]

/-! The instructions (R108). -/

/-- What accepting a legal request does: the pin check of R202, the string engine of a string write, the request latch, the
list and `busy`. -/
theorem exec_eq (i : Instr) (s : State) :
    exec i s = .next (startOp i (expand Config.hw i)
      (match i with
       | .initPins => s
       | .init => s
       | .writeString a => startString a (checkPins s)
       | _ => checkPins s)) := by
  cases i with
  | initPins => simp only [exec, execInitPins, expand]
  | sendNibble v r => simp only [exec, execSendNibble, expand]
  | sendCmd4 v t => simp only [exec, execSendCmd4, expand]
  | sendCmd8 c t => simp only [exec, execSendCmd8, expand]
  | writeChar h => simp only [exec, execWriteChar, expand]
  | writeString a => simp only [exec, execWriteString, expand, readByte]
  | moveCursor x y => simp only [exec, execMoveCursor, expand]
  | initProcedure => simp only [exec, execInitProcedure, expand]
  | init => simp only [exec, execInit, expand, List.singleton_append]

/-! One edge. -/

theorem endEdge_eq_next {o : Host.Outcome State Fault Refusal} {t : State} (h : endEdge o = .next t) :
    ∃ u, o = .next u ∧ t = passEdge u := by
  cases o <;> simp_all [endEdge]

/-- Everything an edge that answers a next state can have been. -/
theorem step_cases {s t : State} (h : step s = .next t) :
    (s.edge.rst = true ∧ t = passEdge (resetBlock (agentWrites s.edge s))) ∨
    (s.edge.rst = false ∧ s.busy = true ∧ ∃ m ms, s.seq = m :: ms ∧
      t = passEdge (settle (microEdge Config.hw m ms (agentWrites s.edge s)))) ∨
    (s.edge.rst = false ∧ s.busy = false ∧ s.edge.reqValid = true ∧ (∃ why, decode s.edge.reqWord = .illegal why) ∧
      t = passEdge (raiseError .illegalRequest (agentWrites s.edge s))) ∨
    (s.edge.rst = false ∧ s.busy = false ∧ s.edge.reqValid = true ∧ ∃ i u, decode s.edge.reqWord = .legal i ∧
      exec i (agentWrites s.edge s) = .next u ∧ t = passEdge u) ∨
    (s.edge.rst = false ∧ s.busy = false ∧ s.edge.reqValid = false ∧ t = passEdge (agentWrites s.edge s)) := by
  obtain ⟨u, hu, rfl⟩ := endEdge_eq_next h
  unfold blockEdge at hu
  split at hu
  · next hr => cases hu; exact .inl ⟨hr, rfl⟩
  · next hr =>
    simp only [Bool.not_eq_true, agentWrites_busy] at hr hu
    refine .inr ?_
    split at hu
    · next hb =>
      refine .inl ⟨hr, hb, ?_⟩
      unfold runEdge at hu
      split at hu
      · cases hu
      · next m ms hs => cases hu; exact ⟨m, ms, by simpa using hs, rfl⟩
    · next hb =>
      simp only [Bool.not_eq_true] at hb
      refine .inr ?_
      split at hu
      · next hv =>
        unfold accept at hu
        split at hu
        · next why hd => cases hu; exact .inl ⟨hr, hb, hv, ⟨why, hd⟩, rfl⟩
        · next i hd => exact .inr (.inl ⟨hr, hb, hv, i, u, hd, hu, rfl⟩)
      · next hv => cases hu; exact .inr (.inr ⟨hr, hb, by simpa using hv, rfl⟩)

/-! Runs. -/

@[simp] theorem run_zero (s : State) : run 0 s = .next s := rfl

theorem run_succ (k : Nat) (s : State) : run (k + 1) s = andThen (step s) (run k) := rfl

@[simp] theorem andThen_next (s : State) (f : State → Host.Outcome State Fault Refusal) :
    andThen (.next s) f = f s := rfl

theorem andThen_assoc (o : Host.Outcome State Fault Refusal) (f g : State → Host.Outcome State Fault Refusal) :
    andThen (andThen o f) g = andThen o fun s => andThen (f s) g := by
  cases o <;> rfl

theorem andThen_eq_next {o : Host.Outcome State Fault Refusal} {f : State → Host.Outcome State Fault Refusal} {t : State}
    (h : andThen o f = .next t) : ∃ u, o = .next u ∧ f u = .next t := by
  cases o <;> simp_all [andThen]

theorem run_add (j k : Nat) (s : State) : run (j + k) s = andThen (run j s) (run k) := by
  induction j generalizing s with
  | zero => simp
  | succ j ih =>
    rw [Nat.succ_add, run_succ, run_succ, andThen_assoc]
    congr 1
    funext u
    exact ih u

theorem noReset_head {n : Nat} {s : State} (h : NoReset (n + 1) s) : s.edge.rst = false := by
  unfold State.edge
  cases hi : s.inputs with
  | nil => rfl
  | cons e es => exact h e (by simp [hi])

theorem noReset_tail {n : Nat} {s : State} (h : NoReset (n + 1) s) : ∀ e ∈ s.inputs.tail.take n, e.rst = false := by
  cases hi : s.inputs with
  | nil => simp
  | cons e es =>
    intro x hx
    exact h x (by simp [hi] at hx ⊢; exact .inr hx)

end Sys2Proof.Machine
end

