-- ==== Sys2Proof/Laws/Sequencer.lean ====
section
/-!
SUPPORT. What the lists of the nine requests look like (`framed`), what a micro-op's edge leaves of such a list (`seqOk`), and
what an edge of a running operation keeps (40_pins_and_nibble.md R100 to R104, R108).
-/

namespace Sys2Proof.Machine

/-! The lists: whole nibble transfers and waits the counter can hold. -/

theorem framed_nib (n : Nibble) (r : Bool) (ms : List MicroOp) (h : framed Config.hw ms = true) :
    framed Config.hw (nib Config.hw n r ++ ms) = true := by
  simp [nib_hw, framed, h]

theorem cyc_le_counter (t : Nat) (ht : t ≤ 65535) : Config.hw.cyc t ≤ 65535 * Config.hw.clkPerUs := by
  rw [Params.cyc]; exact Nat.mul_le_mul_right _ ht

theorem framed_dly (t : Nat) (ms : List MicroOp) (ht : t ≤ 65535) (h : framed Config.hw ms = true) :
    framed Config.hw (dly Config.hw t ++ ms) = true := by
  rcases Nat.eq_zero_or_pos t with rfl | h0
  · simpa
  · rw [dly_hw t h0]
    have := cyc_le_counter t ht
    have : 1 ≤ Config.hw.cyc t := Nat.mul_pos h0 hw_clkPerUs_pos
    simp [framed, *]

theorem framed_cmd4 (v : Byte) (t : Nat) (ms : List MicroOp) (ht : t ≤ 65535) (h : framed Config.hw ms = true) :
    framed Config.hw (cmd4 Config.hw v t ++ ms) = true := by
  simp only [cmd4, List.append_assoc]
  exact framed_nib _ _ _ (framed_dly _ _ ht h)

theorem framed_cmd8 (c : Byte) (t : Nat) (ms : List MicroOp) (ht : t ≤ 65535) (h : framed Config.hw ms = true) :
    framed Config.hw (cmd8 Config.hw c t ++ ms) = true := by
  simp only [cmd8, List.append_assoc]
  exact framed_nib _ _ _ (framed_nib _ _ _ (framed_dly _ _ ht h))

theorem framed_chr (b : Byte) (ms : List MicroOp) (h : framed Config.hw ms = true) :
    framed Config.hw (chr Config.hw b ++ ms) = true := by
  simp only [chr, List.append_assoc]
  exact framed_nib _ _ _ (framed_nib _ _ _ (framed_dly _ _ (by simp) h))

theorem framed_initSeq : framed Config.hw (initSeq Config.hw) = true := by
  have h := framed_dly Config.hw.tPowerUs _ (by simp) <| framed_cmd4 0x03#8 Config.hw.tInit1Us _ (by simp) <|
    framed_cmd4 0x03#8 Config.hw.tInit2Us _ (by simp) <| framed_cmd8 0x32#8 Config.hw.tCmdUs _ (by simp) <|
    framed_cmd8 0x28#8 Config.hw.tCmdUs _ (by simp) <| framed_cmd8 0x08#8 Config.hw.tCmdUs _ (by simp) <|
    framed_cmd8 0x01#8 Config.hw.tClearUs _ (by simp) <| framed_cmd8 0x06#8 Config.hw.tCmdUs _ (by simp) <|
    framed_cmd8 0x0F#8 Config.hw.tCmdUs [] (by simp) rfl
  simpa only [initSeq, List.append_assoc, List.append_nil] using h

/-- The list of every request. -/
theorem framed_expand (i : Instr) : framed Config.hw (expand Config.hw i) = true := by
  have hl : ∀ t : Half, t.toNat ≤ 65535 := fun t => by have := t.isLt; omega
  cases i with
  | initPins => rfl
  | sendNibble v r => simpa [expand] using framed_nib (lo v) r [] rfl
  | sendCmd4 v t => simpa [expand] using framed_cmd4 v t.toNat [] (hl t) rfl
  | sendCmd8 c t => simpa [expand] using framed_cmd8 c t.toNat [] (hl t) rfl
  | writeChar h => simpa [expand] using framed_chr h [] rfl
  | writeString a => rfl
  | moveCursor x y => simpa [expand] using framed_cmd8 (cursorCmd Config.hw x y) 50 [] (by simp) rfl
  | initProcedure => exact framed_initSeq
  | init => simpa only [expand, List.singleton_append, framed] using framed_initSeq

/-- What follows a byte read from the string. -/
theorem framed_stringRest (b idx) : framed Config.hw (stringRest Config.hw b idx) = true := by
  unfold stringRest
  split
  · rfl
  · refine framed_chr _ _ ?_
    split <;> rfl

theorem seqOk_of_framed (ms : List MicroOp) (h : framed Config.hw ms = true) : seqOk Config.hw false false ms = true := by
  unfold seqOk
  split <;> simp_all [framed]

/-- Every micro-op's edge leaves a sequence the spec's lists can leave. -/
theorem seqOk_microEdge (m : MicroOp) (ms : List MicroOp) (s : State)
    (h : seqOk Config.hw s.eQ s.memRdQ (m :: ms) = true) :
    let t := microEdge Config.hw m ms s
    seqOk Config.hw t.eQ t.memRdQ t.seq = true := by
  intro t
  by_cases hc : m = .rdCap
  · subst hc
    have : s.eQ = false := by
      unfold seqOk at h; split at h <;> simp_all [framed]
    simp only [t, microEdge, capture_eQ, capture_memRdQ, capture_seq, this]
    exact seqOk_of_framed _ (framed_stringRest _ _)
  cases m with
  | rdCap => exact absurd rfl hc
  | pins =>
    simp only [seqOk, Bool.and_eq_true, Bool.not_eq_true', framed] at h
    simp only [t, microEdge, h]; exact seqOk_of_framed _ h.2
  | setD n =>
    simp only [seqOk, Bool.and_eq_true, Bool.not_eq_true'] at h
    obtain ⟨⟨h1, h2⟩, h3⟩ := h
    simp only [t, microEdge, h1, h2]
    unfold framed at h3
    split at h3 <;> simp_all [seqOk]
  | setRs b =>
    unfold seqOk at h
    split at h <;> simp_all [framed, seqOk, microEdge, t]
  | eHi =>
    unfold seqOk at h
    have := hw_clkPerUs_pos
    split at h <;> simp_all [framed, seqOk, microEdge, t]
    omega
  | eLo =>
    unfold seqOk at h
    split at h <;> simp_all [microEdge, t]
    exact seqOk_of_framed _ (by simp_all)
  | rdIssue =>
    unfold seqOk at h
    split at h <;> simp_all [microEdge, t]
    unfold framed at h
    split at h <;> simp_all [seqOk]
  | wait c =>
    unfold seqOk at h
    split at h <;> simp_all [microEdge, t]
    · split
      · simp [seqOk]; simp_all; omega
      · simp_all [seqOk]
    · split
      · apply seqOk_of_framed; simp_all [framed]; omega
      · apply seqOk_of_framed; simp_all [framed]

/-! An edge of a running operation. -/

/-- What `n` edges without a string read keep of a running operation. -/
structure Moved (n : Nat) (s t : State) : Prop where
  inputs : t.inputs = s.inputs.drop n
  cycle : t.cycle = s.cycle + n
  errI : t.errIllegal = s.errIllegal
  errN : t.errNopins = s.errNopins
  op : t.rqOp = s.rqOp
  arg : t.rqArg = s.rqArg
  str : KeepsString s t
  mem : NoWrites n s → t.mem = s.mem ∧ (s.overwritten = [] → t.overwritten = [])

theorem Moved.refl (s : State) : Moved 0 s s :=
  ⟨by simp, by simp, rfl, rfl, rfl, rfl, ⟨rfl, rfl, rfl, rfl, rfl, rfl⟩, fun _ => ⟨rfl, id⟩⟩

theorem forall_take_drop {n m : Nat} {s t : State} {P : Edge → Prop} (h : ∀ e ∈ s.inputs.take (n + m), P e)
    (ht : t.inputs = s.inputs.drop n) : ∀ e ∈ t.inputs.take m, P e := by
  intro e he
  apply h
  rw [ht, List.take_drop] at he
  exact List.mem_of_mem_drop he

theorem forall_take_le {n m : Nat} {s : State} {P : Edge → Prop} (h : ∀ e ∈ s.inputs.take (n + m), P e) :
    ∀ e ∈ s.inputs.take n, P e := by
  intro e he
  apply h
  have : s.inputs.take n <+: s.inputs.take (n + m) := List.take_prefix_take_left (by omega)
  exact this.subset he

theorem Moved.trans {n m : Nat} {s t u : State} (h : Moved n s t) (k : Moved m t u) : Moved (n + m) s u := by
  constructor
  · rw [k.inputs, h.inputs, List.drop_drop]
  · rw [k.cycle, h.cycle]; omega
  · rw [k.errI, h.errI]
  · rw [k.errN, h.errN]
  · rw [k.op, h.op]
  · rw [k.arg, h.arg]
  · have a := h.str; have b := k.str; simp only [KeepsString] at *; simp [*]
  · intro hw
    have a := h.mem (forall_take_le hw)
    have b := k.mem (forall_take_drop hw h.inputs)
    exact ⟨b.1.trans a.1, fun x => b.2 (a.2 x)⟩

/-- The edge of a running operation (R101). -/
theorem step_of_busy {s : State} {m : MicroOp} {ms : List MicroOp} (hr : s.edge.rst = false) (hb : s.busy = true)
    (hs : s.seq = m :: ms) :
    step s = .next (passEdge (settle (microEdge Config.hw m ms (agentWrites s.edge s)))) := by
  simp [step, blockEdge, hr, hb, runEdge, hs, endEdge]

theorem agentWrites_silent {s : State} (h : s.edge.memWrites = []) :
    (agentWrites s.edge s).mem = s.mem ∧
      (s.overwritten = [] → (agentWrites s.edge s).overwritten = []) := by
  rw [agentWrites_of_none _ _ h]; simp; exact fun a _ => a

theorem noWrites_head {n : Nat} {s : State} (h : NoWrites (n + 1) s) : s.edge.memWrites = [] := by
  unfold State.edge
  cases hi : s.inputs with
  | nil => rfl
  | cons e es => exact h e (by simp [hi])

theorem moved_microEdge {s : State} {m : MicroOp} {ms : List MicroOp} (hm : m ≠ .rdIssue) (hc : m ≠ .rdCap) :
    Moved 1 s (passEdge (settle (microEdge Config.hw m ms (agentWrites s.edge s)))) := by
  constructor
  · simp [microEdge_frame]
  · simp [microEdge_frame]
  · simp [microEdge_frame]
  · simp [microEdge_frame]
  · simp [microEdge_frame]
  · simp [microEdge_frame]
  · cases m <;> simp_all [microEdge, KeepsString]
  · intro h
    have := agentWrites_silent (noWrites_head h)
    simp [microEdge_frame, this]
    cases m <;> simp_all [microEdge, emitLatch]
    split <;> simp_all

/-- One edge of a micro-op that is no string read. -/
theorem step_simple {s : State} {m : MicroOp} {ms : List MicroOp} {k : Nat} (hr : NoReset (k + 1) s) (hb : s.busy = true)
    (hs : s.seq = m :: ms) (hm : m ≠ .rdIssue) (hc : m ≠ .rdCap) :
    ∃ t, step s = .next t ∧ Moved 1 s t ∧ NoReset k t ∧
      t = passEdge (settle (microEdge Config.hw m ms (agentWrites s.edge s))) := by
  refine ⟨_, step_of_busy (noReset_head hr) hb hs, moved_microEdge hm hc, ?_, rfl⟩
  have := (moved_microEdge (ms := ms) (s := s) hm hc).inputs
  exact forall_take_drop (n := 1) (by rw [Nat.add_comm]; exact hr) this

end Sys2Proof.Machine
end

