-- ==== Sys2Proof/Tests/Slice0.lean ====
section
/-!
SUPPORT. The author's own tests, with expected results from the spec's tables and vectors (30_encoding.md R82,
95_test_vectors.md), and one witness for every statement that has hypotheses.
-/

open Sys2Proof Sys2Proof.Machine

namespace Sys2Proof.Tests

/-- The test vectors' parameters: this hardware's values with `CLK_PER_US = 1`; the two bit positions are arbitrary. -/
def p1 : Params where
  clkPerUs := 1
  strobeUs := 1
  charSettleUs := 50
  cursorDelayUs := 50
  tPowerUs := 15000
  tInit1Us := 4100
  tInit2Us := 100
  tCmdUs := 45
  tClearUs := 1700
  columns := 16
  stringCap := 100
  eBit := 2
  rsBit := 0

/-- The same with `CLK_PER_US = 16`. -/
def p16 : Params := { p1 with clkPerUs := 16 }

/-- What holds of the next state of an outcome. -/
def after (o : Host.Outcome State Fault Refusal) (f : State → Bool) : Bool :=
  match o with
  | .next s => f s
  | .fault _ => false
  | .refused _ => false

/-- The machine after reset with the word `w` presented at the next edge. -/
def asked (w : Nat) : State := State.reset.withFetchWord 32 w

/-- The machine with a configured display, running `ms` with E at `e`. -/
def running (e : Bool) (ms : List MicroOp) : State :=
  { State.reset with pinsCfg := true, busy := true, eQ := e, seq := ms }

/-- A string write at `base` with `idx` characters sent, whose read strobe is high. -/
def reading (base : Half) (idx : Nat) (m : Memory) : State :=
  { running false [.rdCap] with
    rqOp := 0x6#4, strBase := base, strIdx := idx, memAddrQ := stringAddr base idx, memRdQ := true, mem := m }

/-- An edge with `rst = 1`. -/
def rstEdge : Edge := { Edge.idle with rst := true }

theorem quiet (n : Nat) (s : State) (h : ∀ e ∈ s.inputs, e.rst = false) : NoReset n s :=
  fun e he => h e (List.mem_of_mem_take he)

theorem quietMem (n : Nat) (s : State) (h : ∀ e ∈ s.inputs, e.memWrites = []) : NoWrites n s :=
  fun e he => h e (List.mem_of_mem_take he)

/-! ## The assembler's check (R80): an ill-formed line for each number -/

theorem test_wellFormed_smoke :
    (Asm.sendNibble 256 0).wellFormed = false ∧ (Asm.sendNibble 0 2).wellFormed = false ∧
    (Asm.sendCmd4 256 0).wellFormed = false ∧ (Asm.sendCmd4 0 65536).wellFormed = false ∧
    (Asm.sendCmd8 256 0).wellFormed = false ∧ (Asm.sendCmd8 0 65536).wellFormed = false ∧
    (Asm.writeChar 256).wellFormed = false ∧ (Asm.writeString 65536).wellFormed = false ∧
    (Asm.moveCursor 256 0).wellFormed = false ∧ (Asm.moveCursor 0 256).wellFormed = false ∧
    (Asm.sendCmd4Now 256).wellFormed = false ∧ (Asm.sendCmd8Now 256).wellFormed = false ∧
    (Asm.nibbleCmd 256).wellFormed = false ∧ (Asm.nibbleData 256).wellFormed = false := by decide

theorem test_illformed_is_an_assembly_error : (Asm.sendCmd4 0 65536).assemble = none := by decide

theorem test_largest_numbers_fit :
    (Asm.sendNibble 255 1).wellFormed = true ∧ (Asm.sendCmd4 255 65535).wellFormed = true ∧
    (Asm.sendCmd8 255 65535).wellFormed = true ∧ (Asm.writeChar 255).wellFormed = true ∧
    (Asm.writeString 65535).wellFormed = true ∧ (Asm.moveCursor 255 255).wellFormed = true := by decide

/-- R81: `NIBBLE_DATA v` is `SEND_NIBBLE v, data`. -/
theorem test_pseudo : (Asm.nibbleData 0x5).assemble = some (.sendNibble 0x5#8 true) ∧
    (Asm.nibbleCmd 0x5).assemble = some (.sendNibble 0x5#8 false) ∧
    (Asm.sendCmd8Now 0xAB).assemble = some (.sendCmd8 0xAB#8 0#16) := by decide

/-! ## Decoding: words written out from R71 and the vectors L2.1 -/

theorem test_decode_initPins : decode 0b0001_0000_000000000000000000000000#32 = .legal .initPins := by decide

theorem test_decode_sendNibble :
    decode 0b0010_0000_000000000000000_1_11110101#32 = .legal (.sendNibble 0xF5#8 true) ∧
    decode 0x20000003#32 = .legal (.sendNibble 0x03#8 false) := by decide

theorem test_decode_sendCmd4 :
    decode 0b0011_0000_1111111111111111_00001111#32 = .legal (.sendCmd4 0x0F#8 65535#16) ∧
    decode 0x30000003#32 = .legal (.sendCmd4 0x03#8 0#16) := by decide

theorem test_decode_sendCmd8 :
    decode 0b0100_0000_0000011010100100_00000001#32 = .legal (.sendCmd8 0x01#8 1700#16) ∧
    decode 0x4000FF00#32 = .legal (.sendCmd8 0x00#8 255#16) := by decide

theorem test_decode_writeChar :
    decode 0b0101_0000_0000000000000000_01000001#32 = .legal (.writeChar 0x41#8) := by decide

theorem test_decode_writeString :
    decode 0b0110_0000_00000000_1111111111111110#32 = .legal (.writeString 0xFFFE#16) := by decide

theorem test_decode_moveCursor :
    decode 0b0111_0000_00000000_00000001_00000011#32 = .legal (.moveCursor 3#8 1#8) ∧
    decode 0x7000FFFF#32 = .legal (.moveCursor 255#8 255#8) := by decide

theorem test_decode_initProcedure :
    decode 0b1000_0000_000000000000000000000000#32 = .legal .initProcedure := by decide

theorem test_decode_init : decode 0b1001_0000_000000000000000000000000#32 = .legal .init := by decide

theorem test_decode_illegal_arg :
    decode 0x10000001#32 = .illegal .reservedArgBit ∧ decode 0x20000205#32 = .illegal .reservedArgBit ∧
    decode 0x50000141#32 = .illegal .reservedArgBit ∧ decode 0x6001FFFF#32 = .illegal .reservedArgBit ∧
    decode 0x70010000#32 = .illegal .reservedArgBit ∧ decode 0x80000001#32 = .illegal .reservedArgBit ∧
    decode 0x90800000#32 = .illegal .reservedArgBit := by decide

theorem test_decode_illegal_op :
    decode 0x00000000#32 = .illegal .reservedOpcode ∧ decode 0xA0000000#32 = .illegal .reservedOpcode ∧
    decode 0xF0000000#32 = .illegal .reservedOpcode := by decide

theorem test_decode_illegal_rsv :
    decode 0x11000000#32 = .illegal .reservedField ∧ decode 0x3FFFFF0F#32 = .illegal .reservedField ∧
    (decode 0xFFFFFFFF#32).instr? = none := by decide

/-- R82: words the encoder must give. -/
theorem test_encode :
    encode (.sendCmd4 0x03#8 100#16) = 0x30006403#32 ∧ encode (.sendCmd8 0x32#8 45#16) = 0x40002D32#32 ∧
    encode (.moveCursor 3#8 1#8) = 0x70000103#32 ∧ encode (.sendNibble 0x5#8 true) = 0x20000105#32 ∧
    encode (.writeString 0x0200#16) = 0x60000200#32 ∧ encode (.writeChar 0x41#8) = 0x50000041#32 := by decide

theorem test_decodeTableWord :
    decodeTableWord 32 0x70000103 = some (.moveCursor 3#8 1#8) ∧ decodeTableWord 32 0xA0000000 = none := by decide

/-! ## The lists of the nine requests, `K = 1` (vectors L2.2 to L2.5): total edges and latch events from the accepting edge 0 -/

theorem test_list_initPins : totalEdges (expand p1 .initPins) = 1 ∧
    walkLatches false 0#4 false 1 (expand p1 .initPins) = [] := by decide

theorem test_list_sendNibble : totalEdges (expand p1 (.sendNibble 0xF5#8 true)) = 5 ∧
    walkLatches true 0#4 false 1 (expand p1 (.sendNibble 0xF5#8 true)) = [⟨true, 0x5#4, 5⟩] ∧
    totalEdges (expand p16 (.sendNibble 0xF5#8 true)) = 20 ∧
    walkLatches true 0#4 false 1 (expand p16 (.sendNibble 0xF5#8 true)) = [⟨true, 0x5#4, 20⟩] := by decide

theorem test_list_sendCmd4 : totalEdges (expand p1 (.sendCmd4 0x0F#8 65535#16)) = 65540 ∧
    totalEdges (expand p1 (.sendCmd4 0xF3#8 0#16)) = 5 ∧
    walkLatches true 0#4 true 1 (expand p1 (.sendCmd4 0xF3#8 0#16)) = [⟨false, 0x3#4, 5⟩] := by decide

theorem test_list_sendCmd8 : totalEdges (expand p1 (.sendCmd8 0x01#8 1700#16)) = 1710 ∧
    walkLatches true 0#4 true 1 (expand p1 (.sendCmd8 0xAB#8 0#16)) = [⟨false, 0xA#4, 5⟩, ⟨false, 0xB#4, 10⟩] := by decide

theorem test_list_writeChar : totalEdges (expand p1 (.writeChar 0x41#8)) = 60 ∧
    walkLatches true 0#4 false 1 (expand p1 (.writeChar 0x41#8)) = [⟨true, 0x4#4, 5⟩, ⟨true, 0x1#4, 10⟩] := by decide

theorem test_list_writeString : expand p1 (.writeString 0x0300#16) = [.rdIssue, .rdCap] ∧ p1.charCycles = 62 := by decide

theorem test_list_moveCursor : totalEdges (expand p1 (.moveCursor 255#8 255#8)) = 60 ∧
    walkLatches true 0#4 true 1 (expand p1 (.moveCursor 255#8 255#8)) = [⟨false, 0xE#4, 5⟩, ⟨false, 0xF#4, 10⟩] := by decide

theorem test_list_initProcedure : totalEdges (expand p1 .initProcedure) = 21195 ∧
    totalEdges (expand p16 .initProcedure) = 338280 ∧
    (walkLatches true 0#4 true 1 (expand p1 .initProcedure)).map (fun l => (l.d.toNat, l.edge)) =
      [(0x3, 15005), (0x3, 19110), (0x3, 19215), (0x2, 19220), (0x2, 19270), (0x8, 19275), (0x0, 19325), (0x8, 19330),
       (0x0, 19380), (0x1, 19385), (0x0, 21090), (0x6, 21095), (0x0, 21145), (0xF, 21150)] := by decide

theorem test_list_init : totalEdges (expand p1 .init) = 21196 ∧
    (walkLatches false 0#4 true 1 (expand p1 .init)).map (fun l => (l.rs, l.edge)) =
      [15006, 19111, 19216, 19221, 19271, 19276, 19326, 19331, 19381, 19386, 21091, 21096, 21146, 21151].map
        fun k => (false, k) := by decide

/-- Without the pins configured no list is observed (L2.6). -/
theorem test_list_undriven : walkLatches false 0#4 true 1 (expand p1 .initProcedure) = [] := by decide

/-! ## The accepting edge, from reset (vectors L2.2, L2.6) -/

theorem test_accept_initPins : after (step (asked 0x10000000)) (fun t => t.status == 0x01#8 && t.seq == [.pins] &&
    t.cycle == 1 && t.inputs == []) = true := by decide

theorem test_accept_sendNibble : after (step (asked 0x20000003)) (fun t => t.status == 0x09#8 && t.rqOp == 0x2#4 &&
    t.rqArg == 0x000003#24) = true := by decide

theorem test_accept_sendCmd4 : after (step (asked 0x30100403)) (fun t => t.status == 0x09#8 && t.rqOp == 0x3#4 &&
    t.rqArg == 0x100403#24) = true := by decide

theorem test_accept_sendCmd8 : after (step (asked 0x400000AB)) (fun t => t.status == 0x09#8 && t.rqOp == 0x4#4 &&
    t.rqArg == 0x0000AB#24) = true := by decide

theorem test_accept_writeChar : after (step (asked 0x50000021)) (fun t => t.status == 0x09#8 && t.rqOp == 0x5#4 &&
    t.rqArg == 0x000021#24) = true := by decide

theorem test_accept_writeString : after (step (asked 0x6000FFFE)) (fun t => t.status == 0x09#8 && t.rqOp == 0x6#4 &&
    t.strBase == 0xFFFE#16 && t.strIdx == 0 && t.seq == [.rdIssue, .rdCap]) = true := by decide

theorem test_accept_moveCursor : after (step (asked 0x70000103)) (fun t => t.status == 0x09#8 && t.rqOp == 0x7#4 &&
    t.rqArg == 0x000103#24) = true := by decide

theorem test_accept_initProcedure : after (step (asked 0x80000000)) (fun t => t.status == 0x09#8 && t.rqOp == 0x8#4) = true := by
  decide

theorem test_accept_init : after (step (asked 0x90000000)) (fun t => t.status == 0x01#8 && t.rqOp == 0x9#4) = true := by decide

/-- An illegal word is consumed and only recorded, and not as a missing pin configuration (L2.6). -/
theorem test_illegal : after (step (asked 0x20000205)) (fun t => t.status == 0x04#8 && t.seq == [] && t.rqOp == 0x0#4 &&
    t.inputs == []) = true := by decide

/-- `rst = 1` with `req_valid = 1`: no request is accepted (L2.7). -/
theorem test_reset_over_request : after (step { asked 0x10000000 with
    inputs := [{ rst := true, reqValid := true, reqWord := 0x10000000#32, memWrites := [] }], errIllegal := true })
    (fun t => t.status == 0x00#8 && t.seq == [] && t.rqOp == 0x0#4) = true := by decide

/-! ## One edge of each micro-op (R100) -/

theorem test_edge_pins : after (step { running false [.pins] with pinsCfg := false }) (fun t => t.status == 0x02#8 && t.lcdE == some false) =
    true := by decide

theorem test_edge_setD : after (step (running false [.setD 0x5#4, .setRs true])) (fun t => t.lcdD == some 0x5#4 && t.busy) = true := by
  decide

theorem test_edge_setRs : after (step (running false [.setRs true, .eHi])) (fun t => t.lcdRs == some true && t.seq == [.eHi]) = true := by
  decide

theorem test_edge_eHi : after (step (running false [.eHi, .wait 7, .eLo])) (fun t => t.lcdE == some true && t.latches == []) = true := by
  decide

theorem test_edge_wait : after (step (running true [.wait 7, .eLo])) (fun t => t.seq == [.wait 6, .eLo]) = true ∧
    after (step (running true [.wait 1, .eLo])) (fun t => t.seq == [.eLo] && t.busy) = true := by decide

theorem test_edge_eLo : after (step { running true [.eLo] with dQ := 0x5#4, rsQ := true, cycle := 5 }) (fun t =>
    t.status == 0x02#8 && t.latches == [⟨true, 0x5#4, 5⟩] && t.lcdE == some false) = true := by decide

/-- Reset at the `ELO` edge of a strobe: no event, the lines are no longer driven (L2.7). -/
theorem test_reset_in_strobe : after (step { running true [.eLo] with inputs := [rstEdge] }) (fun t =>
    t.latches == [] && t.lcdE == none && t.status == 0x00#8) = true := by decide

/-- The second byte of a string at `0xFFFF` is read at `0x0000` (L2.4). -/
theorem test_edge_rdIssue : after (step { running false [.rdIssue, .rdCap] with strBase := 0xFFFF#16, strIdx := 1 })
    (fun t => t.memAddr == 0x0000#16 && t.memRd) = true := by decide

/-- The null byte ends the operation at its `RDCAP` edge (L1.3). -/
theorem test_edge_rdCap_null : after (step (reading 0x0300#16 0 [(0x300, 0x00#8)])) (fun t => t.status == 0x02#8 && t.strIdx == 0 &&
    t.memRd == false && t.reads == [⟨0x0300#16, 0x00#8, 0⟩]) = true := by decide

/-- The 99th character is followed by one more read, the 100th is not (L2.4). -/
theorem test_continuation_cap : stringRest p1 0x78#8 98 = chr p1 0x78#8 ++ [.rdIssue, .rdCap] ∧
    stringRest p1 0x78#8 99 = chr p1 0x78#8 := by decide

/-! ## The string memory -/

theorem test_memory_write : (Memory.write (Memory.write (Memory.write [] 5 1#8) 3 2#8) 5 9#8) = [(3, 2#8), (5, 9#8)] := by decide

theorem test_memory_wf : Memory.wf [(5, 1#8), (3, 2#8)] = false ∧ Memory.wf [(65536, 1#8)] = false ∧
    Memory.wf [(0, 0#8), (65535, 1#8)] = true := by decide

/-- A byte another agent replaced while the string write ran: the old or the new value may be read (R55). -/
theorem test_race : after (step { running false [.rdIssue, .rdCap] with
      mem := [(0x0300, 0x41#8)], strBase := 0x0300#16, inputs := [{ Edge.idle with memWrites := [(0x0300#16, 0x42#8)] }] })
    (fun t => t.answers == [some 0x42#8, some 0x41#8]) = true := by decide

/-! ## Outputs -/

theorem test_port_view : ({ running true [] with rsQ := true, dQ := 0xA#4 } : State).controlOut p1 0xF0#8 = 0xF5#8 ∧
    (running false []).controlDir p1 0x00#8 = 0x05#8 ∧
    ({ running true [] with dQ := 0xA#4 } : State).dataOut 0x5C#8 = 0x5A#8 ∧ State.reset.dataDir 0xFF#8 = 0xF0#8 := by decide

/-- R72: the source's `asCommand = true` is RS low. -/
theorem test_rs : rsOfAsCommand true = false ∧ rsOfAsCommand false = true := by decide

/-- R201, R202: the causes' status bits are where the status vector shows them. -/
theorem test_cause_bits : (raiseError .illegalRequest State.reset).status.getLsbD ErrorCause.illegalRequest.statusBit = true ∧
    (raiseError .transferBeforePinConfig State.reset).status.getLsbD ErrorCause.transferBeforePinConfig.statusBit = true ∧
    ErrorCause.illegalRequest.code = 1 ∧ ErrorCause.transferBeforePinConfig.code = 2 := by decide

/-- R8, R184: the waits of the initialization sequence add up to 21125 microseconds. -/
theorem test_init_wait : Config.hw.initWaitUs = 21125 := by decide

/-! ## Witnesses: for each statement with hypotheses, data that meet all of them together

`asked w` is the state after reset whose next edge presents the word `w`. -/

theorem resetInv : State.reset.Inv := ⟨rfl, rfl, rfl, by decide, by simp [State.reset]⟩

/-- A state after reset that presents a word meets the invariant, and nothing disturbs its run. -/
theorem asked_good (w n : Nat) : (asked w).Inv ∧ NoReset n (asked w) ∧ NoWrites n (asked w) :=
  ⟨⟨rfl, rfl, rfl, Nat.zero_le _, by simp [asked, State.withFetchWord, present]⟩,
    quiet n _ (by simp [asked, State.withFetchWord, present, State.reset]),
    quietMem n _ (by simp [asked, State.withFetchWord, present, State.reset, State.edge, Edge.idle])⟩

theorem witness_legal_word : decode 0x30FFFF0F#32 = .legal (.sendCmd4 0x0F#8 65535#16) ∧
    decode 0x7000FFFF#32 = .legal (.moveCursor 255#8 255#8) := by decide

theorem witness_opcode_rows : (0xFFFFFE00#32, 0x20000000#32) ∈ opcodeRows ∧ 0x200001FF#32 &&& 0xFFFFFE00#32 = 0x20000000#32 ∧
    (0xFFFFFFFF#32, 0x90000000#32) ∈ opcodeRows ∧ 0x90000000#32 &&& 0xFFFFFFFF#32 = 0x90000000#32 := by decide

theorem witness_reserved_opcode : (0x0FFFFFFF#32).extractLsb' 28 4 = 0x0#4 ∧ 0xA#4 ≤ (0xA0000000#32).extractLsb' 28 4 ∧
    0xA#4 ≤ (0xF0000000#32).extractLsb' 28 4 := by decide

theorem witness_reserved_bits : (0x31000000#32).extractLsb' 24 4 ≠ 0#4 ∧ (0x3FFFFF0F#32).extractLsb' 24 4 ≠ 0#4 ∧
    ((0x10000001#32).extractLsb' 28 4 = 0x1#4 ∧ (0x10000001#32).extractLsb' 0 24 ≠ 0#24) ∧
    ((0x20000200#32).extractLsb' 28 4 = 0x2#4 ∧ (0x20000200#32).extractLsb' 9 15 ≠ 0#15) ∧
    ((0x50000100#32).extractLsb' 28 4 = 0x5#4 ∧ (0x50000100#32).extractLsb' 8 16 ≠ 0#16) ∧
    ((0x60010000#32).extractLsb' 28 4 = 0x6#4 ∧ (0x60010000#32).extractLsb' 16 8 ≠ 0#8) ∧
    ((0x70800000#32).extractLsb' 28 4 = 0x7#4 ∧ (0x70800000#32).extractLsb' 16 8 ≠ 0#8) ∧
    ((0x80800000#32).extractLsb' 28 4 = 0x8#4 ∧ (0x80800000#32).extractLsb' 0 24 ≠ 0#24) ∧
    ((0x90000001#32).extractLsb' 28 4 = 0x9#4 ∧ (0x90000001#32).extractLsb' 0 24 ≠ 0#24) := by decide

theorem witness_value_high_nibble : decode 0x200001F5#32 = .legal (.sendNibble 0xF5#8 true) ∧
    decode 0x300000F3#32 = .legal (.sendCmd4 0xF3#8 0#16) := by decide

theorem witness_assembled :
    (Asm.sendNibble 255 1).assemble = some (.sendNibble 255#8 true) ∧
    (Asm.sendCmd4 255 65535).assemble = some (.sendCmd4 255#8 65535#16) ∧
    (Asm.sendCmd8 255 65535).assemble = some (.sendCmd8 255#8 65535#16) ∧
    (Asm.writeChar 255).assemble = some (.writeChar 255#8) ∧
    (Asm.writeString 65535).assemble = some (.writeString 65535#16) ∧
    (Asm.moveCursor 255 0).assemble = some (.moveCursor 255#8 0#8) := by decide

/-- Every request is accepted somewhere: the hypothesis of the statements about each operation, with `asked_good` for the
invariant and the silence of the others. -/
theorem witness_accepts :
    Accepts (asked 0x10000000) .initPins ∧ Accepts (asked 0x200001F5) (.sendNibble 0xF5#8 true) ∧
    Accepts (asked 0x30FFFF0F) (.sendCmd4 0x0F#8 65535#16) ∧ Accepts (asked 0x30000003) (.sendCmd4 0x03#8 0#16) ∧
    Accepts (asked 0x400000AB) (.sendCmd8 0xAB#8 0#16) ∧ Accepts (asked 0x50000000) (.writeChar 0x00#8) ∧
    Accepts (asked 0x6000FFFF) (.writeString 0xFFFF#16) ∧ Accepts (asked 0x7000FFFF) (.moveCursor 255#8 255#8) ∧
    Accepts (asked 0x80000000) .initProcedure ∧ Accepts (asked 0x90000000) .init := by decide

/-- The same with the pins configured: the latch events of the statements are not empty. -/
theorem witness_accepts_driven : Accepts { asked 0x50000041 with pinsCfg := true } (.writeChar 0x41#8) ∧
    NoReset (1 + (2 * Config.hw.nibbleCycles + Config.hw.cyc 50)) { asked 0x50000041 with pinsCfg := true } :=
  ⟨by decide, quiet _ _ (by decide)⟩

theorem witness_init_pins : (asked 0x10000000).Inv ∧ Accepts (asked 0x10000000) .initPins ∧ NoReset 2 (asked 0x10000000) :=
  ⟨(asked_good _ 2).1, by decide, (asked_good _ 2).2.1⟩

theorem witness_string_request : ∃ a, Instr.writeString 0xFFFF#16 = .writeString a := ⟨_, rfl⟩

theorem witness_no_string_request : ∀ a, Instr.init ≠ .writeString a := by simp

theorem witness_illegal_request : (asked 0).edge.rst = false ∧ (asked 0).busy = false ∧ (asked 0).edge.reqValid = true ∧
    decode (asked 0).edge.reqWord = .illegal .reservedOpcode ∧
    decode (asked 0x11000000).edge.reqWord = .illegal .reservedField ∧
    decode (asked 0x80000001).edge.reqWord = .illegal .reservedArgBit := by decide

theorem witness_idle_edge : State.reset.edge.rst = false ∧ State.reset.busy = false ∧ State.reset.edge.reqValid = false := by
  decide

/-- While an operation runs, and while `rst = 1`. -/
theorem witness_request_port_ignored : (running true [.eLo]).busy = true ∧ rstEdge.rst = true ∧
    Edge.idle.rst = (asked 0x10000000).edge.rst ∧ Edge.idle.memWrites = (asked 0x10000000).edge.memWrites ∧
    Edge.idle ≠ (asked 0x10000000).edge ∧ rstEdge ≠ { rstEdge with reqValid := true } := by decide

/-- Two reset edges in a row, the first during a strobe. -/
theorem witness_reset_edge : ∃ t, ({ running true [.eLo] with inputs := [rstEdge, rstEdge] } : State).edge.rst = true ∧
    step { running true [.eLo] with inputs := [rstEdge, rstEdge] } = .next t ∧ t.edge.rst = true :=
  ⟨_, rfl, rfl, rfl⟩

/-- After the one reset edge of this state, `rst = 0`. -/
theorem witness_reset_values : ∃ t, ({ running true [.eLo] with inputs := [rstEdge] } : State).edge.rst = true ∧
    step { running true [.eLo] with inputs := [rstEdge] } = .next t ∧ t.edge.rst = false :=
  ⟨_, rfl, rfl, rfl⟩

theorem witness_no_agent_writes : ∃ t, step (asked 0x60000200) = .next t ∧ (asked 0x60000200).edge.memWrites = [] :=
  ⟨_, rfl, rfl⟩

/-- Another agent writes the lowest and the highest byte. -/
theorem witness_agent_writes : ∃ t,
    step { State.reset with inputs := [{ Edge.idle with memWrites := [(0x0000#16, 1#8), (0xFFFF#16, 2#8)] }] } = .next t ∧
    t.mem = [(0, 1#8), (65535, 2#8)] :=
  ⟨_, rfl, by decide⟩

theorem witness_sticky : ∃ t u, step { running true [.eLo] with errIllegal := true, errNopins := true } = .next t ∧
    step { running true [.eLo] with errIllegal := true, errNopins := true, inputs := [rstEdge] } = .next u :=
  ⟨_, _, rfl, rfl⟩

theorem witness_error_rises : ∃ t u, step (asked 0xF0000000) = .next t ∧ (asked 0xF0000000).errIllegal = false ∧
    t.errIllegal = true ∧ step (asked 0x80000000) = .next u ∧ (asked 0x80000000).errNopins = false ∧ u.errNopins = true :=
  ⟨_, _, rfl, rfl, rfl, rfl, rfl, rfl⟩

/-- Each of the micro-ops that writes a line register, at the head of a running sequence. -/
theorem witness_line_registers : ∃ a b c d e, step { running false [.pins] with pinsCfg := false } = .next a ∧
    step (running false [.setD 0xF#4, .setRs true]) = .next b ∧ b.dQ ≠ State.reset.dQ ∧
    step (running false [.setRs true, .eHi]) = .next c ∧ c.rsQ ≠ State.reset.rsQ ∧
    step (running false [.eHi, .eLo]) = .next d ∧ step (running true [.eLo]) = .next e :=
  ⟨_, _, _, _, _, rfl, rfl, by decide, rfl, by decide, rfl, rfl⟩

theorem witness_latch : ∃ t, step (running true [.eLo]) = .next t ∧ (running true [.eLo]).edge.rst = false ∧
    (running true [.eLo]).busy = true ∧ (running true [.eLo]).seq.head? = some .eLo ∧ (running true [.eLo]).pinsCfg = true :=
  ⟨_, rfl, rfl, rfl, rfl, rfl⟩

theorem witness_string_registers : ∃ a b c, step (running false [.rdIssue, .rdCap]) = .next a ∧ a.memRdQ = true ∧
    step (reading 0x0200#16 99 [(0x263, 0x2A#8)]) = .next b ∧ b.strIdx = 100 ∧
    step { asked 0x6000FFFF with strIdx := 7 } = .next c ∧ c.strIdx = 0 ∧ c.strBase = 0xFFFF#16 :=
  ⟨_, _, _, rfl, rfl, rfl, by decide, rfl, rfl, rfl⟩

/-- The invariant with E high, in the last cycle of the strobe. -/
theorem strobeInv (ms : List MicroOp) (h : framed Config.hw ms = true) (hr : .rdCap ∉ ms) : (running true (.eLo :: ms)).Inv :=
  ⟨rfl, rfl, by simp [running, seqOk, State.reset, h], Nat.zero_le _, by simp [running, hr]⟩

theorem witness_inv_step : ∃ t, (running true [.eLo]).Inv ∧ step (running true [.eLo]) = .next t ∧ t.busy = false ∧
    t.eQ = false ∧ (running true [.eLo]).eQ = true ∧ (running true [.eLo]).edge.rst = false :=
  ⟨_, strobeInv [] rfl (by simp), rfl, rfl, rfl, rfl, rfl⟩

/-- The edge at which E rises, and the silence after it. -/
theorem witness_strobe : ∃ t, (running false [.eHi, .wait Config.hw.strobeCycles, .eLo]).Inv ∧
    step (running false [.eHi, .wait Config.hw.strobeCycles, .eLo]) = .next t ∧
    (running false [.eHi, .wait Config.hw.strobeCycles, .eLo]).eQ = false ∧ t.eQ = true ∧
    NoReset (Config.hw.strobeCycles + 1) t :=
  ⟨_, ⟨rfl, rfl, by simp [running, seqOk, State.reset, framed], by decide, by simp [running]⟩, rfl, rfl, rfl,
    quiet _ _ (by decide)⟩

/-- Between the two strobes of one operation. -/
theorem witness_between_strobes : ∃ t, (running true (.eLo :: nib Config.hw 0x5#4 true)).Inv ∧
    step (running true (.eLo :: nib Config.hw 0x5#4 true)) = .next t ∧ t.eQ = false ∧ t.busy = true :=
  ⟨_, strobeInv _ (by simp [nib_hw, framed]) (by simp [nib_hw]), rfl, rfl, rfl⟩

theorem readingInv (base : Half) (idx : Nat) (m : Memory) (h : idx < 100) (hm : m.wf = true) : (reading base idx m).Inv :=
  ⟨hm, rfl, rfl, Nat.le_of_lt h, fun _ => ⟨h, rfl⟩⟩

theorem witness_read_strobe : ∃ t, (reading 0xFFFF#16 1 [(0, 0x2A#8)]).Inv ∧
    step (reading 0xFFFF#16 1 [(0, 0x2A#8)]) = .next t ∧ (reading 0xFFFF#16 1 [(0, 0x2A#8)]).memRdQ = true ∧
    (reading 0xFFFF#16 1 [(0, 0x2A#8)]).edge.rst = false :=
  ⟨_, readingInv _ _ _ (by decide) (by decide), rfl, rfl, rfl⟩

/-- The null byte, a character, and the last character the cap allows. -/
theorem witness_continuation : ∃ a b c, (reading 0x0200#16 0 [(0x200, 0x00#8)]).Inv ∧
    step (reading 0x0200#16 0 [(0x200, 0x00#8)]) = .next a ∧ a.strByte = 0x00#8 ∧
    (reading 0x0200#16 98 [(0x262, 0x2A#8)]).Inv ∧ step (reading 0x0200#16 98 [(0x262, 0x2A#8)]) = .next b ∧ b.strIdx = 99 ∧
    (reading 0x0200#16 99 [(0x263, 0x2A#8)]).Inv ∧ step (reading 0x0200#16 99 [(0x263, 0x2A#8)]) = .next c ∧ c.strIdx = 100 :=
  ⟨_, _, _, readingInv _ _ _ (by decide) (by decide), rfl, by decide, readingInv _ _ _ (by decide) (by decide), rfl, by decide,
    readingInv _ _ _ (by decide) (by decide), rfl, by decide⟩

/-- No other agent's write; then a write to the byte read, whose old contents were known. -/
theorem witness_read_answers : (reading 0x0300#16 0 [(0x300, 0x41#8)]).memRdQ = true ∧
    (∀ w ∈ (reading 0x0300#16 0 [(0x300, 0x41#8)]).overwritten, w.1 ≠ (reading 0x0300#16 0 [(0x300, 0x41#8)]).memAddrQ) ∧
    (reading 0x0300#16 0 [(0x300, 0x41#8)]).mem.byteAt? (reading 0x0300#16 0 [(0x300, 0x41#8)]).memAddrQ.toNat = some 0x41#8 ∧
    ∀ w ∈ ({ reading 0x0300#16 0 [(0x300, 0x42#8)] with overwritten := [(0x0300#16, some 0x41#8)] } : State).overwritten,
      w.1 = (reading 0x0300#16 0 []).memAddrQ → w.2 ≠ none :=
  ⟨rfl, by simp [reading, running, State.reset], by decide, by simp⟩

/-- A running list without reads, in any silence. -/
theorem witness_list (n : Nat) : (running false (nib Config.hw 0x5#4 true)).busy = true ∧
    (running false (nib Config.hw 0x5#4 true)).seq ≠ [] ∧ fixedList (running false (nib Config.hw 0x5#4 true)).seq = true ∧
    NoReset n (running false (nib Config.hw 0x5#4 true)) := by
  have := hw_clkPerUs_pos
  refine ⟨rfl, by simp [running, nib_hw], ?_, quiet n _ (by decide +revert)⟩
  simp [running, nib_hw, fixedList]
  omega

/-- Two runs that differ in a request presented, in the memory and in another agent's write. -/
theorem witness_two_runs : ∃ t,
    SameRegisters (running false [.pins, .eLo])
      { running false [.pins, .eLo] with
        mem := [(7, 7#8)], inputs := [{ Edge.idle with reqValid := true, memWrites := [(0#16, 1#8)] }] } ∧
    fixedList (running false [.pins, .eLo]).seq = true ∧ (2 ≤ totalEdges (running false [.pins, .eLo]).seq) ∧
    NoReset 2 (running false [.pins, .eLo]) ∧
    NoReset 2 { running false [.pins, .eLo] with
        mem := [(7, 7#8)], inputs := [{ Edge.idle with reqValid := true, memWrites := [(0#16, 1#8)] }] } ∧
    run 2 (running false [.pins, .eLo]) = .next t :=
  ⟨_, ⟨rfl, rfl, rfl, rfl, rfl, rfl, rfl, rfl, rfl, rfl, rfl, rfl, rfl, rfl, rfl⟩, rfl, by decide, by decide, by decide, rfl⟩

/-- A wait before another micro-op, and one that ends its operation. -/
theorem witness_wait : (running false (dly Config.hw 1 ++ [.pins])).busy = true ∧
    (running false (dly Config.hw 1 ++ [.pins])).seq = dly Config.hw 1 ++ [.pins] ∧
    NoReset (1 * Config.hw.clkPerUs) (running false (dly Config.hw 1 ++ [.pins])) ∧
    (running false (dly Config.hw 65535)).busy = true ∧
    (running false (dly Config.hw 65535)).seq = dly Config.hw 65535 ++ [] ∧
    NoReset (65535 * Config.hw.clkPerUs) (running false (dly Config.hw 65535)) :=
  ⟨rfl, rfl, quiet _ _ (by decide +revert), rfl, by simp [running], quiet _ _ (by decide +revert)⟩

theorem witness_nibble : (running false (nib Config.hw 0xF#4 true ++ [])).busy = true ∧
    (running false (nib Config.hw 0xF#4 true ++ [])).eQ = false ∧
    (running false (nib Config.hw 0xF#4 true ++ [])).seq = nib Config.hw 0xF#4 true ++ [] ∧
    NoReset Config.hw.nibbleCycles (running false (nib Config.hw 0xF#4 true ++ [])) :=
  ⟨rfl, rfl, rfl, quiet _ _ (by decide +revert)⟩

/-- The machine with the string memory `m` and a string write at `base` presented. -/
def askedString (base : Nat) (m : Memory) : State := { asked (0x60000000 + base) with mem := m }

/-- The empty string, and one that wraps from `0xFFFF` to `0x0000`. -/
theorem witness_terminated (n : Nat) :
    (askedString 0x300 [(0x300, 0x00#8)]).Inv ∧ Accepts (askedString 0x300 [(0x300, 0x00#8)]) (.writeString 0x0300#16) ∧
    holdsString (askedString 0x300 [(0x300, 0x00#8)]).mem 0x0300#16 0 ([] ++ [0x00#8]) ∧
    (askedString 0xFFFF [(0, 0x00#8), (0xFFFF, 0x51#8)]).Inv ∧
    Accepts (askedString 0xFFFF [(0, 0x00#8), (0xFFFF, 0x51#8)]) (.writeString 0xFFFF#16) ∧ 0x00#8 ∉ [0x51#8] ∧
    holdsString (askedString 0xFFFF [(0, 0x00#8), (0xFFFF, 0x51#8)]).mem 0xFFFF#16 0 ([0x51#8] ++ [0x00#8]) ∧
    NoReset n (askedString 0xFFFF [(0, 0x00#8), (0xFFFF, 0x51#8)]) ∧
    NoWrites n (askedString 0xFFFF [(0, 0x00#8), (0xFFFF, 0x51#8)]) :=
  ⟨⟨rfl, rfl, rfl, by decide, by simp [askedString, asked, State.withFetchWord, present]⟩, by decide, ⟨by decide, trivial⟩,
    ⟨rfl, rfl, rfl, by decide, by simp [askedString, asked, State.withFetchWord, present]⟩, by decide, by decide,
    ⟨by decide, by decide, trivial⟩, quiet n _ (by decide +revert), quietMem n _ (by decide +revert)⟩

/-- A memory that holds the byte `0x2A` at `k` addresses from `lo` on. -/
def stars (lo k : Nat) : Memory := (List.range' lo k).map fun a => (a, 0x2A#8)

/-- 99 characters and the terminator: the longest string that ends before the cap. -/
theorem witness_longest : (List.replicate 99 0x2A#8).length < 100 ∧ 0x00#8 ∉ List.replicate 99 0x2A#8 ∧
    holdsString (askedString 0x400 (stars 0x400 99 ++ [(0x463, 0x00#8)])).mem 0x0400#16 0 (List.replicate 99 0x2A#8 ++ [0x00#8]) ∧
    Accepts (askedString 0x400 (stars 0x400 99 ++ [(0x463, 0x00#8)])) (.writeString 0x0400#16) ∧
    (askedString 0x400 (stars 0x400 99 ++ [(0x463, 0x00#8)])).Inv := by
  refine ⟨by decide, by decide, ?_, by decide, ⟨by decide, rfl, rfl, by decide, by simp [askedString, asked, State.withFetchWord, present]⟩⟩
  repeat first | exact trivial | refine ⟨rfl, ?_⟩

/-- 100 characters without a terminator. -/
theorem witness_cap (n : Nat) : (List.replicate 100 0x2A#8).length = 100 ∧ 0x00#8 ∉ List.replicate 100 0x2A#8 ∧
    holdsString (askedString 0x400 (stars 0x400 100)).mem 0x0400#16 0 (List.replicate 100 0x2A#8) ∧
    Accepts (askedString 0x400 (stars 0x400 100)) (.writeString 0x0400#16) ∧
    NoReset n (askedString 0x400 (stars 0x400 100)) ∧ NoWrites n (askedString 0x400 (stars 0x400 100)) := by
  refine ⟨by decide, by decide, ?_, by decide, quiet n _ (by decide +revert), quietMem n _ (by decide +revert)⟩
  repeat first | exact trivial | refine ⟨rfl, ?_⟩

theorem witness_cursor_range : (15#8).toNat ≤ 15 ∧ (1#8).toNat ≤ 1 := by decide

/-- The read of byte 1 of a string at `0xFFFF`. -/
theorem witness_rdIssue : NoReset 2 { running false [.rdIssue, .rdCap] with strBase := 0xFFFF#16, strIdx := 1 } ∧
    ({ running false [.rdIssue, .rdCap] with strBase := 0xFFFF#16, strIdx := 1 } : State).busy = true ∧
    ({ running false [.rdIssue, .rdCap] with strBase := 0xFFFF#16, strIdx := 1 } : State).seq = .rdIssue :: .rdCap :: [] := by
  decide

theorem witness_boot_order : bootOrder false false [.initPins, .initProcedure, .moveCursor 0#8 0#8, .writeString 0x0100#16] = true ∧
    bootOrder false false [.init, .writeChar 0x41#8] = true ∧ bootOrder false false [.initPins, .writeChar 0x41#8] = false := by
  decide

end Sys2Proof.Tests
end

section
/-!
The reset edge (10_state.md R38, 70_reset_and_hazards.md R230): its next state, the registers there, and the outputs those
registers show.
-/

namespace Sys2Proof.Machine

/-- An edge with `rst = 1`, whatever the block was doing (R230). -/
theorem step_of_rst {s : State} (hr : s.edge.rst = true) :
    step s = .next (passEdge (resetBlock (agentWrites s.edge s))) := by
  simp [step, blockEdge, hr, endEdge]

/-- The fifteen registers of R20 after a reset edge are those of `State.reset` (R38). -/
theorem sameRegisters_reset_of_step {s t : State} (hr : s.edge.rst = true) (h : step s = .next t) :
    SameRegisters State.reset t := by
  rw [step_of_rst hr] at h
  cases h
  simp [SameRegisters]

theorem SameRegisters.symm {s t : State} (h : SameRegisters s t) : SameRegisters t s := by
  simp only [SameRegisters] at h ⊢
  simp only [h, and_self]

theorem status_of_sameRegisters {s t : State} (h : SameRegisters s t) : t.status = s.status := by
  obtain ⟨hbusy, hpins, -, -, -, hillegal, hnopins, -⟩ := h
  simp only [State.status, hbusy, hpins, hillegal, hnopins]

theorem reqReady_of_idle {s : State} (hb : s.busy = false) (hr : s.edge.rst = false) : s.reqReady = true := by
  simp [State.reqReady, hb, hr]

/-- Before pin configuration the block drives no LCD line (R27). -/
theorem lcd_undriven {s : State} (hp : s.pinsCfg = false) :
    s.lcdOe = false ∧ s.lcdD = none ∧ s.lcdRs = none ∧ s.lcdE = none := by
  simp [State.lcdOe, State.lcdD, State.lcdRs, State.lcdE, hp]

/-- Settles O17: the reset edge leaves the registers of `State.reset`, and the outputs follow from the registers. -/
theorem resetValuesAreTheSpecs : Obligations.ResetValuesAreTheSpecs := by
  unfold Obligations.ResetValuesAreTheSpecs
  intro s t hr h
  have hregs := sameRegisters_reset_of_step hr h
  have hstatus : t.status = 0x00#8 := status_of_sameRegisters hregs
  have hsymm := hregs.symm
  obtain ⟨hbusy, hpins, hd, hrs, he, hillegal, hnopins, hop, harg, hseq, hbase, hidx, hbyte, haddr, hrd⟩ := hregs
  obtain ⟨hoe, hlcdD, hlcdRs, hlcdE⟩ := lcd_undriven hpins
  exact ⟨hbusy, hpins, hd, hrs, he, hillegal, hnopins, hop, harg, hseq, hbase, hidx, hbyte, haddr, hrd,
    hstatus, reqReady_of_idle hbusy, hoe, hlcdD, hlcdRs, hlcdE, hrd, haddr, hsymm⟩

end Sys2Proof.Machine
end

section
/-!
The two edges of a string read (20_memory.md R52, R53, R60; 42_text_output.md R152): the address issued, then the byte captured.
-/

namespace Sys2Proof.Machine

/-! The address of a byte of the string (R53). -/

theorem toNat_stringAddr (base : Half) (i : Nat) : (stringAddr base i).toNat = (base.toNat + i) % 2 ^ 16 :=
  BitVec.toNat_ofNat _ _

theorem stringAddr_succ (base : Half) (i : Nat) : stringAddr base (i + 1) = stringAddr base i + 1#16 := by
  rw [stringAddr, ← Nat.add_assoc, BitVec.ofNat_add, stringAddr]

/-! The edges. -/

/-- The edge leaves the block busy, because the `RDCAP` of the read is still to run. -/
theorem step_rdIssue {s : State} {m : MicroOp} {ms : List MicroOp} (hr : s.edge.rst = false) (hb : s.busy = true)
    (hs : s.seq = .rdIssue :: m :: ms) :
    step s = .next (passEdge { agentWrites s.edge s with
      memAddrQ := stringAddr s.strBase s.strIdx, memRdQ := true, seq := m :: ms }) := by
  rw [step_of_busy hr hb hs, settle_cons _ m ms rfl]
  simp only [microEdge, agentWrites_strBase, agentWrites_strIdx]

/-- What the issuing edge leaves for the capturing edge to find. -/
theorem rdIssue_effect {s : State} {ms : List MicroOp} (hr : NoReset 2 s) (hb : s.busy = true)
    (hs : s.seq = .rdIssue :: .rdCap :: ms) :
    ∃ t, step s = .next t ∧ t.edge.rst = false ∧ t.busy = true ∧ t.seq = .rdCap :: ms ∧ t.memRdQ = true ∧
      t.memAddrQ = stringAddr s.strBase s.strIdx ∧ t.reads = s.reads ∧
      t.errIllegal = s.errIllegal ∧ t.errNopins = s.errNopins := by
  refine ⟨_, step_rdIssue (noReset_head hr) hb hs, ?_, ?_⟩
  · exact noReset_head (n := 0) (forall_take_drop (n := 1) hr (by simp))
  · simp [hb]

/-- With the read strobe high, the capturing edge records one read, of the byte it samples at the address on the port. -/
theorem rdCap_effect {s : State} {ms : List MicroOp} (hr : s.edge.rst = false) (hb : s.busy = true)
    (hs : s.seq = .rdCap :: ms) (hrd : s.memRdQ = true) :
    ∃ t, step s = .next t ∧ t.reads = s.reads ++ [{ addr := s.memAddrQ, byte := t.strByte, edge := s.cycle }] ∧
      t.errIllegal = s.errIllegal ∧ t.errNopins = s.errNopins := by
  refine ⟨_, step_of_busy hr hb hs, ?_⟩
  simp [microEdge, hrd]

/-- Settles O47: the effects of the two edges in turn, and the addresses in 16 bits. -/
theorem stringAddressesWrap : Obligations.StringAddressesWrap := by
  unfold Obligations.StringAddressesWrap
  refine ⟨?_, stringAddr_succ, by decide⟩
  intro s ms hr hb hs
  obtain ⟨t, hstep, hrt, hbt, hseq, hrd, haddr, hreads, hillegal, hnopins⟩ := rdIssue_effect hr hb hs
  obtain ⟨u, hstep', hreads', hillegal', hnopins'⟩ := rdCap_effect hrt hbt hseq hrd
  have htoNat : t.memAddrQ.toNat = (s.strBase.toNat + s.strIdx) % 2 ^ 16 := by rw [haddr, toNat_stringAddr]
  exact ⟨t, u, hstep, hrd, htoNat, hstep', ⟨t.cycle, by rw [hreads', hreads]⟩,
    hillegal'.trans hillegal, hnopins'.trans hnopins⟩

end Sys2Proof.Machine
end

section
/-!
The illegal words (30_encoding.md R74, R75): what `decode` answers to a reserved field, to each operation code whose layout has
must-be-zero bits, and to a reserved operation code.
-/

namespace Sys2Proof

theorem legalIfZero_of_ne {n : Nat} {z : BitVec n} (i : Instr) (hz : z ≠ 0#n) :
    legalIfZero z i = .illegal .reservedArgBit :=
  if_neg hz

section
variable {w : Word}

theorem decode_of_rsvField_ne (hr : rsvField w ≠ 0#4) : decode w = .illegal .reservedField :=
  if_neg hr

/-! One equation per operation code with must-be-zero operand bits, where `RSV = 0000` (R71). -/

theorem decode_initPins (hr : rsvField w = 0#4) (ho : opField w = 0x1#4) :
    decode w = legalIfZero (w.extractLsb' 0 24) .initPins := by
  simp [decode, hr, ho]

theorem decode_sendNibble (hr : rsvField w = 0#4) (ho : opField w = 0x2#4) :
    decode w = legalIfZero (w.extractLsb' 9 15) (.sendNibble (w.extractLsb' 0 8) (w.getLsbD 8)) := by
  simp [decode, hr, ho]

theorem decode_writeChar (hr : rsvField w = 0#4) (ho : opField w = 0x5#4) :
    decode w = legalIfZero (w.extractLsb' 8 16) (.writeChar (w.extractLsb' 0 8)) := by
  simp [decode, hr, ho]

theorem decode_writeString (hr : rsvField w = 0#4) (ho : opField w = 0x6#4) :
    decode w = legalIfZero (w.extractLsb' 16 8) (.writeString (w.extractLsb' 0 16)) := by
  simp [decode, hr, ho]

theorem decode_moveCursor (hr : rsvField w = 0#4) (ho : opField w = 0x7#4) :
    decode w = legalIfZero (w.extractLsb' 16 8) (.moveCursor (w.extractLsb' 0 8) (w.extractLsb' 8 8)) := by
  simp [decode, hr, ho]

theorem decode_initProcedure (hr : rsvField w = 0#4) (ho : opField w = 0x8#4) :
    decode w = legalIfZero (w.extractLsb' 0 24) .initProcedure := by
  simp [decode, hr, ho]

theorem decode_init (hr : rsvField w = 0#4) (ho : opField w = 0x9#4) :
    decode w = legalIfZero (w.extractLsb' 0 24) .init := by
  simp [decode, hr, ho]

/-- No row of the decoder's table has the operation code `0x0` or one from `0xA` on. -/
theorem decode_of_reserved_opField (hr : rsvField w = 0#4) (ho : opField w = 0x0#4 ∨ 0xA#4 ≤ opField w) :
    decode w = .illegal .reservedOpcode := by
  have hop : (opField w).toNat = 0 ∨ 10 ≤ (opField w).toNat := by
    simpa [BitVec.le_def, ← BitVec.toNat_inj] using ho
  rw [decode, if_pos hr]
  split  -- the nine rows, then the default
  case h_10 => rfl
  all_goals omega

/-- A word with a reserved field is illegal whatever its operation code is, so only `RSV = 0000` is left to show. -/
theorem illegal_of_rsvField_zero_imp {why : IllegalWord} (h : rsvField w = 0#4 → decode w = .illegal why) :
    ∃ why, decode w = .illegal why := by
  by_cases hr : rsvField w = 0#4
  · exact ⟨why, h hr⟩
  · exact ⟨_, decode_of_rsvField_ne hr⟩

/-- A word whose operation code has the must-be-zero bits `z` is illegal when they are not zero. -/
theorem illegal_of_reserved_argBit {n : Nat} {z : BitVec n} {i : Instr}
    (hd : rsvField w = 0#4 → decode w = legalIfZero z i) (hz : z ≠ 0#n) : ∃ why, decode w = .illegal why :=
  illegal_of_rsvField_zero_imp fun hr => (hd hr).trans (legalIfZero_of_ne i hz)

end

/-- Settles O4, by the decoder's table where the reserved field is zero. -/
theorem reservedOpcodeIsIllegal : Obligations.ReservedOpcodeIsIllegal := by
  unfold Obligations.ReservedOpcodeIsIllegal
  intro w hop
  exact illegal_of_rsvField_zero_imp fun hr => decode_of_reserved_opField hr hop

/-- Settles O5: a reserved field is refused before the operation code is looked at, and each operation code with must-be-zero
operand bits goes through `legalIfZero`. -/
theorem reservedBitsAreIllegal : Obligations.ReservedBitsAreIllegal := by
  unfold Obligations.ReservedBitsAreIllegal
  intro w h
  obtain hr | ⟨ho, hz⟩ | ⟨ho, hz⟩ | ⟨ho, hz⟩ | ⟨ho, hz⟩ | ⟨ho, hz⟩ | ⟨ho, hz⟩ | ⟨ho, hz⟩ := h
  · exact ⟨_, decode_of_rsvField_ne hr⟩
  · exact illegal_of_reserved_argBit (decode_initPins · ho) hz
  · exact illegal_of_reserved_argBit (decode_sendNibble · ho) hz
  · exact illegal_of_reserved_argBit (decode_writeChar · ho) hz
  · exact illegal_of_reserved_argBit (decode_writeString · ho) hz
  · exact illegal_of_reserved_argBit (decode_moveCursor · ho) hz
  · exact illegal_of_reserved_argBit (decode_initProcedure · ho) hz
  · exact illegal_of_reserved_argBit (decode_init · ho) hz

end Sys2Proof
end

section
/-!
The LCD side of the block at one edge (40_pins_and_nibble.md R100, R101): the registers behind the six lines and the latch events.
Only a running micro-op or a reset moves it, so what a run does to the lines follows from the micro-ops it runs.
-/

namespace Sys2Proof.Machine

/-- The registers behind the LCD lines (R23 to R26) and the latch events so far (R107). -/
structure LcdSide where
  pins : Bool
  d : Nibble
  rs : Bool
  e : Bool
  latches : List LatchEvent

def State.lcdSide (s : State) : LcdSide := ⟨s.pinsCfg, s.dQ, s.rsQ, s.eQ, s.latches⟩

@[simp] theorem lcdSide_pins (s : State) : s.lcdSide.pins = s.pinsCfg := rfl
@[simp] theorem lcdSide_d (s : State) : s.lcdSide.d = s.dQ := rfl
@[simp] theorem lcdSide_rs (s : State) : s.lcdSide.rs = s.rsQ := rfl
@[simp] theorem lcdSide_e (s : State) : s.lcdSide.e = s.eQ := rfl
@[simp] theorem lcdSide_latches (s : State) : s.lcdSide.latches = s.latches := rfl

/-- The registers and latch events that an LCD side known in full gives. -/
theorem registers_of_lcdSide {u : State} {v : LcdSide} (h : u.lcdSide = v) :
    u.dQ = v.d ∧ u.rsQ = v.rs ∧ u.eQ = v.e ∧ u.latches = v.latches := by
  subst h
  exact ⟨rfl, rfl, rfl, rfl⟩

/-- What the micro-op `m`, executed at edge number `k`, does to the LCD side (`microEdge_lcdSide`). -/
def MicroOp.moveLcd (m : MicroOp) (k : Nat) (v : LcdSide) : LcdSide :=
  match m with
  | .pins => { v with pins := true }
  | .setD n => { v with d := n }
  | .setRs b => { v with rs := b }
  | .eHi => { v with e := true }
  | .eLo => { v with e := false, latches := v.latches ++ if v.pins then [⟨v.rs, v.d, k⟩] else [] }
  | .wait _ => v
  | .rdIssue => v
  | .rdCap => v

/-- What the micro-op `m` leaves of the list it heads, if it is not the read that replaces the list (`microEdge_seq`). -/
def MicroOp.leaves (m : MicroOp) (ms : List MicroOp) : List MicroOp :=
  match m with
  | .wait c => if 1 < c then .wait (c - 1) :: ms else ms
  | _ => ms

theorem microEdge_lcdSide (p : Params) (m : MicroOp) (ms : List MicroOp) (s : State) :
    (microEdge p m ms s).lcdSide = m.moveLcd s.cycle s.lcdSide := by
  cases m with
  | eLo => cases hp : s.pinsCfg <;> simp [microEdge, MicroOp.moveLcd, State.lcdSide, hp]
  | _ => rfl

/-- Of the micro-ops only `ELO` adds a latch event, and only on driven lines (R107). -/
theorem moveLcd_latches (m : MicroOp) (k : Nat) (s : State) :
    (m.moveLcd k s.lcdSide).latches =
      s.latches ++ if m = .eLo ∧ s.pinsCfg = true then [⟨s.rsQ, s.dQ, k⟩] else [] := by
  cases m with
  | eLo => cases hp : s.pinsCfg <;> simp [MicroOp.moveLcd, hp]
  | _ => simp [MicroOp.moveLcd]

theorem microEdge_seq (p : Params) {m : MicroOp} (hc : m ≠ .rdCap) (ms : List MicroOp) (s : State) :
    (microEdge p m ms s).seq = m.leaves ms := by
  cases m with
  | rdCap => exact absurd rfl hc
  | _ => rfl

@[simp] theorem agentWrites_lcdSide (e : Edge) (s : State) : (agentWrites e s).lcdSide = s.lcdSide := by
  simp [State.lcdSide]

@[simp] theorem settle_lcdSide (s : State) : (settle s).lcdSide = s.lcdSide := by
  simp [State.lcdSide]

@[simp] theorem passEdge_lcdSide (s : State) : (passEdge s).lcdSide = s.lcdSide := rfl

/-- The LCD side after the edge of a running operation. -/
theorem runningEdge_lcdSide (m : MicroOp) (ms : List MicroOp) (s : State) :
    (passEdge (settle (microEdge Config.hw m ms (agentWrites s.edge s)))).lcdSide = m.moveLcd s.cycle s.lcdSide := by
  simp [microEdge_lcdSide]

/-- Accepting a request moves no line (R108). -/
theorem exec_lcdSide {i : Instr} {s u : State} (h : exec i s = .next u) : u.lcdSide = s.lcdSide := by
  rw [exec_eq] at h
  cases h
  cases i <;> simp [State.lcdSide]

/-- An edge of an idle block moves no line, whether it accepts a request or not. -/
theorem step_idle_lcdSide {s t : State} (h : step s = .next t) (hr : s.edge.rst = false) (hb : s.busy = false) :
    t.lcdSide = s.lcdSide := by
  obtain ⟨hr', -⟩ | ⟨-, hb', -⟩ | ⟨-, -, -, -, rfl⟩ | ⟨-, -, -, i, u, -, hu, rfl⟩ | ⟨-, -, -, rfl⟩ := step_cases h
  · simp [hr'] at hr
  · simp [hb'] at hb
  · simp [State.lcdSide]
  · rw [passEdge_lcdSide, exec_lcdSide hu, agentWrites_lcdSide]
  · simp

/-- An edge of a busy block has a micro-op to run. -/
theorem step_busy_microEdge {s t : State} (h : step s = .next t) (hr : s.edge.rst = false) (hb : s.busy = true) :
    ∃ m ms, s.seq = m :: ms ∧ t = passEdge (settle (microEdge Config.hw m ms (agentWrites s.edge s))) := by
  obtain ⟨hr', -⟩ | ⟨-, -, hrun⟩ | ⟨-, hb', -⟩ | ⟨-, hb', -⟩ | ⟨-, hb', -⟩ := step_cases h
  · simp [hr'] at hr
  · exact hrun
  all_goals simp [hb'] at hb

/-- Settles O22: of the micro-ops only `ELO` adds to the latch events, and a reset or an idle edge adds none. -/
theorem latchEventExactlyAtDrivenElo : Obligations.LatchEventExactlyAtDrivenElo := by
  unfold Obligations.LatchEventExactlyAtDrivenElo
  intro s t h
  cases hr : s.edge.rst with
  | true =>
    rw [step_of_rst hr] at h
    cases h
    simp
  | false =>
    cases hb : s.busy with
    | false =>
      have hl : t.latches = s.latches := congrArg LcdSide.latches (step_idle_lcdSide h hr hb)
      simp [hl]
    | true =>
      obtain ⟨m, ms, hs, rfl⟩ := step_busy_microEdge h hr hb
      obtain ⟨hd, hrs, he, hlatches⟩ := registers_of_lcdSide (runningEdge_lcdSide m ms s)
      refine ⟨?_, fun _ _ hlo => ?_⟩
      · rw [hlatches, moveLcd_latches]
        simp [hs]
      · obtain rfl : m = .eLo := by simpa [hs] using hlo
        exact ⟨hrs, hd, he⟩

/-! E idles low (R113). -/

theorem seqOk_nil {p : Params} {e rd : Bool} (h : seqOk p e rd [] = true) : e = false := by
  simp only [seqOk, Bool.and_eq_true, Bool.not_eq_true'] at h
  exact h.1.1

/-- The edge of a running operation keeps the invariant's bounds on E, and completes exactly when nothing is left to run. -/
theorem step_busy_seqOk {s t : State} (hi : s.Inv) (h : step s = .next t) (hr : s.edge.rst = false) (hb : s.busy = true) :
    seqOk Config.hw t.eQ t.memRdQ t.seq = true ∧ t.busy = !t.seq.isEmpty := by
  obtain ⟨-, -, hok, -⟩ := hi
  obtain ⟨m, ms, hs, rfl⟩ := step_busy_microEdge h hr hb
  have hkeep := seqOk_microEdge m ms (agentWrites s.edge s) (by simpa [hs] using hok)
  exact ⟨by simpa using hkeep, by simp [microEdge_frame, hb]⟩

theorem State.Inv.eQ_of_idle {s : State} (hi : s.Inv) (hb : s.busy = false) : s.eQ = false := by
  obtain ⟨-, hbusy, hok, -⟩ := hi
  have hs : s.seq = [] := by simpa [hb] using hbusy
  exact seqOk_nil (hs ▸ hok)

/-- Settles O27: an operation that completes has run its list to the end, where the invariant has E low; an idle edge keeps E. -/
theorem enableIsLowWhenIdle : Obligations.EnableIsLowWhenIdle := by
  unfold Obligations.EnableIsLowWhenIdle
  intro s t hi h hidle
  cases hr : s.edge.rst with
  | true =>
    rw [step_of_rst hr] at h
    cases h
    rfl
  | false =>
    cases hb : s.busy with
    | false =>
      have he : t.eQ = s.eQ := congrArg LcdSide.e (step_idle_lcdSide h hr hb)
      exact he.trans (hi.eQ_of_idle hb)
    | true =>
      obtain ⟨hok, hbusy⟩ := step_busy_seqOk hi h hr hb
      have hs : t.seq = [] := by simpa [hidle] using hbusy
      exact seqOk_nil (hs ▸ hok)

end Sys2Proof.Machine
end

section
/-!
Runs of a list without string reads (40_pins_and_nibble.md R102, R104, R105): a wait and one nibble transfer, edge by edge.
-/

namespace Sys2Proof.Machine

/-- `k` edges of a running operation, none of them a string read, lead from `s` to `u`. -/
structure Reaches (k : Nat) (s u : State) : Prop where
  runs : run k s = .next u
  moved : Moved k s u

theorem Reaches.refl (s : State) : Reaches 0 s s := ⟨rfl, .refl s⟩

theorem Reaches.trans {j k : Nat} {s t u : State} (h : Reaches j s t) (h' : Reaches k t u) : Reaches (j + k) s u :=
  ⟨by rw [run_add, h.runs, andThen_next, h'.runs], h.moved.trans h'.moved⟩

theorem NoReset.mono {k n : Nat} {s : State} (h : NoReset n s) (hk : k ≤ n) : NoReset k s :=
  fun e he => h e ((List.take_prefix_take_left hk).subset he)

/-- The edges still to come after a run have no reset either. -/
theorem Reaches.noReset {j k : Nat} {s t : State} (h : Reaches j s t) (hr : NoReset (j + k) s) : NoReset k t :=
  forall_take_drop hr h.moved.inputs

/-- One more edge of a run. -/
theorem Reaches.succ {k : Nat} {s u : State} {m : MicroOp} {ms : List MicroOp} (h : Reaches k s u) (hr : NoReset (k + 1) s)
    (hb : u.busy = true) (hs : u.seq = m :: ms) (hm : m ≠ .rdIssue) (hc : m ≠ .rdCap) :
    ∃ t, Reaches (k + 1) s t ∧ t.seq = m.leaves ms ∧ t.busy = !t.seq.isEmpty ∧ t.lcdSide = m.moveLcd u.cycle u.lcdSide := by
  obtain ⟨t, hstep, hmoved, -, rfl⟩ := step_simple (k := 0) (h.noReset hr) hb hs hm hc
  refine ⟨_, h.trans ⟨by rw [run_succ, hstep]; rfl, hmoved⟩, ?_, ?_, runningEdge_lcdSide m ms u⟩
  · simp [microEdge_seq _ hc]
  · simp [microEdge_frame, hb]

/-! A wait (R102). -/

/-- `k` edges of a wait at the head of the list: it counts down, and the LCD side stays. -/
theorem reaches_wait {c k : Nat} {ms : List MicroOp} {s : State} (hb : s.busy = true) (hs : s.seq = .wait c :: ms)
    (hk : k ≤ c) (hc : 1 ≤ c) (hr : NoReset k s) :
    ∃ u, Reaches k s u ∧ u.seq = (if k < c then .wait (c - k) :: ms else ms) ∧ u.busy = !u.seq.isEmpty ∧
      u.lcdSide = s.lcdSide := by
  induction k with
  | zero => exact ⟨s, .refl s, by rw [hs, if_pos (by omega), Nat.sub_zero], by simp [hs, hb], rfl⟩
  | succ k ih =>
    obtain ⟨u, hreach, hseq, hbusy, hlcd⟩ := ih (by omega) (hr.mono (by omega))
    rw [if_pos (by omega)] at hseq
    obtain ⟨t, hreach', hseq', hbusy', hlcd'⟩ :=
      hreach.succ hr (by rw [hbusy, hseq]; rfl) hseq (by simp) (by simp)
    refine ⟨t, hreach', ?_, hbusy', hlcd'.trans hlcd⟩
    rw [hseq', MicroOp.leaves, Nat.sub_sub]
    exact if_congr (by omega) rfl rfl

theorem lcd_lines_eq {s u : State} (h : u.lcdSide = s.lcdSide) :
    u.lcdOe = s.lcdOe ∧ u.lcdD = s.lcdD ∧ u.lcdRs = s.lcdRs ∧ u.lcdE = s.lcdE := by
  simp only [State.lcdSide, LcdSide.mk.injEq] at h
  obtain ⟨hp, hd, hrs, he, -⟩ := h
  simp [State.lcdOe, State.lcdD, State.lcdRs, State.lcdE, hp, hd, hrs, he]

theorem Moved.status_eq {n : Nat} {s u : State} (h : Moved n s u) (hl : u.lcdSide = s.lcdSide) (hb : u.busy = s.busy) :
    u.status = s.status := by
  have hp : u.pinsCfg = s.pinsCfg := congrArg LcdSide.pins hl
  simp only [State.status, h.errI, h.errN, hb, hp]

/-- Settles O34, by `reaches_wait` for the one `WAIT` that `dly` gives. -/
theorem waitTakesItsCyclesAndMovesNoLine : Obligations.WaitTakesItsCyclesAndMovesNoLine := by
  unfold Obligations.WaitTakesItsCyclesAndMovesNoLine
  refine ⟨fun t => rfl, totalEdges_dly Config.hw, ?_⟩
  intro t ms s ht hb hs hr k hk
  rw [dly_hw t ht] at hs
  have hc : 1 ≤ t * Config.hw.clkPerUs := Nat.mul_pos ht hw_clkPerUs_pos
  obtain ⟨u, hreach, hseq, hbusy, hlcd⟩ := reaches_wait hb hs hk hc (hr.mono hk)
  obtain ⟨-, -, -, haddr, hrd, hreads⟩ := hreach.moved.str
  obtain ⟨hoe, hd, hrs, he⟩ := lcd_lines_eq hlcd
  refine ⟨u, hreach.runs, fun hlt => ?_, fun hend => ?_, hoe, hd, hrs, he, haddr, hrd, congrArg LcdSide.latches hlcd, hreads⟩
  · have hseq' : u.seq = .wait (t * Config.hw.clkPerUs - k) :: ms := hseq.trans (if_pos hlt)
    exact ⟨hseq', hreach.moved.status_eq hlcd (by rw [hbusy, hseq', hb]; rfl)⟩
  · have hseq' : u.seq = ms := hseq.trans (if_neg hend.not_lt)
    rw [hseq'] at hbusy
    exact ⟨hseq', hbusy, fun hne => hreach.moved.status_eq hlcd (by simp [hbusy, hb, hne])⟩

/-! One nibble transfer (R104, R105). -/

section
variable {n : Nibble} {r : Bool} {ms : List MicroOp} {s : State}

/-- The three edges before the strobe's wait: data, RS, E high. -/
theorem reaches_nib_setup (hb : s.busy = true) (hs : s.seq = nib Config.hw n r ++ ms) (hr : NoReset 3 s) :
    (∃ u, Reaches 1 s u ∧ u.lcdSide = { s.lcdSide with d := n }) ∧
    (∃ u, Reaches 2 s u ∧ u.lcdSide = { s.lcdSide with d := n, rs := r }) ∧
    ∃ u, Reaches 3 s u ∧ u.lcdSide = { s.lcdSide with d := n, rs := r, e := true } ∧ u.busy = true ∧
      u.seq = .wait Config.hw.strobeCycles :: .eLo :: ms := by
  rw [nib_hw] at hs
  obtain ⟨a, hA, hseqA, hbusyA, hlcdA⟩ := (Reaches.refl s).succ (hr.mono (by omega)) hb hs (by simp) (by simp)
  obtain ⟨b, hB, hseqB, hbusyB, hlcdB⟩ := hA.succ (hr.mono (by omega)) (by rw [hbusyA, hseqA]; rfl) hseqA (by simp) (by simp)
  obtain ⟨c, hC, hseqC, hbusyC, hlcdC⟩ := hB.succ hr (by rw [hbusyB, hseqB]; rfl) hseqB (by simp) (by simp)
  rw [hlcdA] at hlcdB
  rw [hlcdB] at hlcdC
  exact ⟨⟨a, hA, hlcdA⟩, ⟨b, hB, hlcdB⟩, c, hC, hlcdC, by rw [hbusyC, hseqC]; rfl, hseqC⟩

/-- The strobe: E is high after the third edge and after each edge of its wait. -/
theorem reaches_nib_strobe {k : Nat} (hb : s.busy = true) (hs : s.seq = nib Config.hw n r ++ ms)
    (hk : k ≤ Config.hw.strobeCycles) (hr : NoReset (3 + k) s) :
    ∃ u, Reaches (3 + k) s u ∧ u.lcdSide = { s.lcdSide with d := n, rs := r, e := true } ∧ u.busy = true ∧
      u.seq = if k < Config.hw.strobeCycles then .wait (Config.hw.strobeCycles - k) :: .eLo :: ms else .eLo :: ms := by
  obtain ⟨-, -, c, hC, hlcdC, hbusyC, hseqC⟩ := reaches_nib_setup hb hs (hr.mono (by omega))
  have hS : 1 ≤ Config.hw.strobeCycles := by rw [hw_strobeCycles]; exact hw_clkPerUs_pos
  obtain ⟨u, hu, hseq, hbusy, hlcd⟩ := reaches_wait hbusyC hseqC hk hS (hC.noReset hr)
  refine ⟨u, hC.trans hu, hlcd.trans hlcdC, ?_, hseq⟩
  rw [hbusy, hseq]
  split <;> rfl

/-- The whole transfer: E is low again and the nibble is latched, if the lines are driven. -/
theorem reaches_nib_end (hb : s.busy = true) (hs : s.seq = nib Config.hw n r ++ ms) (hr : NoReset Config.hw.nibbleCycles s) :
    ∃ u, Reaches Config.hw.nibbleCycles s u ∧ u.seq = ms ∧ u.lcdSide = { s.lcdSide with
      d := n, rs := r, e := false,
      latches := s.latches ++ if s.pinsCfg then [⟨r, n, s.cycle + 3 + Config.hw.strobeCycles⟩] else [] } := by
  have hN : Config.hw.nibbleCycles = 3 + Config.hw.strobeCycles + 1 := by rw [Params.nibbleCycles]; omega
  rw [hN] at hr ⊢
  obtain ⟨u, hu, hlcd, hbusy, hseq⟩ := reaches_nib_strobe hb hs le_rfl (hr.mono (by omega))
  obtain ⟨t, ht, hseq', -, hlcd'⟩ := hu.succ hr hbusy (hseq.trans (if_neg (lt_irrefl _))) (by simp) (by simp)
  rw [hlcd, hu.moved.cycle, ← Nat.add_assoc] at hlcd'
  exact ⟨t, ht, hseq', hlcd'⟩

end

/-- Settles O35: the three edges of the setup, the strobe's wait, and the falling edge. -/
theorem nibbleTransferEdgeByEdge : Obligations.NibbleTransferEdgeByEdge := by
  unfold Obligations.NibbleTransferEdgeByEdge
  intro n r ms s hb he hs hr
  have hN : Config.hw.nibbleCycles = 4 + Config.hw.strobeCycles := rfl
  obtain ⟨⟨a, hA, hlcdA⟩, ⟨b, hB, hlcdB⟩, -⟩ := reaches_nib_setup hb hs (hr.mono (by omega))
  obtain ⟨t, ht, hseq, hlcdT⟩ := reaches_nib_end hb hs hr
  obtain ⟨hdA, hrsA, heA, -⟩ := registers_of_lcdSide hlcdA
  obtain ⟨hdB, hrsB, heB, -⟩ := registers_of_lcdSide hlcdB
  obtain ⟨hdT, hrsT, heT, hlatchesT⟩ := registers_of_lcdSide hlcdT
  refine ⟨⟨a, hA.runs, hdA, hrsA, heA.trans he⟩, ⟨b, hB.runs, hdB, hrsB, heB.trans he⟩, fun k hk => ?_,
    ⟨t, ht.runs, hdT, hrsT, heT, hseq, hlatchesT⟩⟩
  obtain ⟨u, hu, hlcd, -, -⟩ := reaches_nib_strobe hb hs hk (hr.mono (by omega))
  obtain ⟨hd, hrs, heU, hlatches⟩ := registers_of_lcdSide hlcd
  exact ⟨u, hu.runs, hd, hrs, heU, hlatches⟩

end Sys2Proof.Machine
end

section
/-!
Consecutive reset edges (70_reset_and_hazards.md R230): the first leaves the registers of `State.reset`, and so does every
further one.
-/

namespace Sys2Proof.Machine

theorem SameRegisters.trans {r s t : State} (hrs : SameRegisters r s) (hst : SameRegisters s t) : SameRegisters r t := by
  simp only [SameRegisters] at hrs hst ⊢
  simp only [hst, hrs, and_self]

/-- R34: no request is accepted at an edge with `rst = 1`, whether the block is busy or idle. -/
theorem reqReady_of_rst {s : State} (hr : s.edge.rst = true) : s.reqReady = false := by
  simp [State.reqReady, hr]

/-- R230: a reset edge emits no latch event and reads no byte. -/
theorem observation_of_step_rst {s t : State} (hr : s.edge.rst = true) (h : step s = .next t) :
    t.latches = s.latches ∧ t.reads = s.reads := by
  rw [step_of_rst hr] at h
  cases h
  simp

/-- Settles O16: both reset edges leave the registers of `State.reset`, so the second changes none. -/
theorem resetEdgeResetsEveryRegister : Obligations.ResetEdgeResetsEveryRegister := by
  unfold Obligations.ResetEdgeResetsEveryRegister
  intro s hr
  have hstep := step_of_rst hr
  have hregs := sameRegisters_reset_of_step hr hstep
  obtain ⟨hlatches, hreads⟩ := observation_of_step_rst hr hstep
  refine ⟨reqReady_of_rst hr, _, hstep, hregs, hlatches, hreads, fun hr' => ?_⟩
  have hstep' := step_of_rst hr'
  exact ⟨_, hstep', hregs.symm.trans (sameRegisters_reset_of_step hr' hstep')⟩

end Sys2Proof.Machine
end

section
/-!
The round trip between requests and words (30_encoding.md R70 to R77, R80, R81): what a legal word's three fields are, the two
directions of the round trip, the opcode table's rows, and the assembler's words.
-/

namespace Sys2Proof

open Machine

theorem legalIfZero_eq_legal {n : Nat} {z : BitVec n} {i j : Instr} : legalIfZero z i = .legal j ↔ z = 0#n ∧ i = j := by
  unfold legalIfZero
  split <;> simp_all

section
variable {w : Word}

/-! The two operation codes without must-be-zero operand bits (R71). -/

theorem decode_sendCmd4 (hr : rsvField w = 0#4) (ho : opField w = 0x3#4) :
    decode w = .legal (.sendCmd4 (w.extractLsb' 0 8) (w.extractLsb' 8 16)) := by
  simp [decode, hr, ho]

theorem decode_sendCmd8 (hr : rsvField w = 0#4) (ho : opField w = 0x4#4) :
    decode w = .legal (.sendCmd8 (w.extractLsb' 0 8) (w.extractLsb' 8 16)) := by
  simp [decode, hr, ho]

/-! The operand field of a word in the pieces that the decoder reads. -/

theorem argField_split : argField w = w.extractLsb' 8 16 ++ w.extractLsb' 0 8 :=
  (BitVec.extractLsb'_append_extractLsb'_eq_extractLsb' (len₁ := 8) (len₂ := 16) (x := w) rfl).symm

theorem argField_split_half : argField w = w.extractLsb' 16 8 ++ w.extractLsb' 0 16 :=
  (BitVec.extractLsb'_append_extractLsb'_eq_extractLsb' (len₁ := 16) (len₂ := 8) (x := w) rfl).symm

theorem middleArg_split : w.extractLsb' 8 16 = w.extractLsb' 16 8 ++ w.extractLsb' 8 8 :=
  (BitVec.extractLsb'_append_extractLsb'_eq_extractLsb' (len₁ := 8) (len₂ := 8) (x := w) rfl).symm

theorem middleArg_split_bit : w.extractLsb' 8 16 = w.extractLsb' 9 15 ++ BitVec.ofBool (w.getLsbD 8) := by
  have hbit : BitVec.ofBool (w.getLsbD 8) = w.extractLsb' 8 1 := by
    ext i hi
    simp [show i = 0 by omega]
  rw [hbit]
  exact (BitVec.extractLsb'_append_extractLsb'_eq_extractLsb' (len₁ := 1) (len₂ := 15) (x := w) rfl).symm

theorem opField_of_toNat {n : Nat} (h : (opField w).toNat = n) : opField w = BitVec.ofNat 4 n := by
  rw [← h, BitVec.ofNat_toNat, BitVec.setWidth_eq]

/-- A row of the decoder with must-be-zero operand bits `z`, which leave the operand field to the request `j`. -/
theorem fields_of_legalIfZero {n : Nat} {z : BitVec n} {i j : Instr} (h : legalIfZero z j = .legal i)
    (hr : rsvField w = 0#4) (ho : opField w = opcode j) (harg : z = 0#n → argField w = operands j) :
    opField w = opcode i ∧ rsvField w = 0#4 ∧ argField w = operands i := by
  obtain ⟨hz, rfl⟩ := legalIfZero_eq_legal.1 h
  exact ⟨ho, hr, harg hz⟩

/-- The three fields of a legal word are those of the request it decodes to, by the rows of the decoder's table. -/
theorem fields_of_decode_legal {i : Instr} (h : decode w = .legal i) :
    opField w = opcode i ∧ rsvField w = 0#4 ∧ argField w = operands i := by
  unfold decode at h
  split at h
  next hr =>
    split at h
    next ho => exact fields_of_legalIfZero h hr (opField_of_toNat ho) id
    next ho =>
      exact fields_of_legalIfZero h hr (opField_of_toNat ho) fun hz => by rw [argField_split, middleArg_split_bit, hz]; rfl
    next ho =>
      cases h
      exact ⟨opField_of_toNat ho, hr, argField_split⟩
    next ho =>
      cases h
      exact ⟨opField_of_toNat ho, hr, argField_split⟩
    next ho => exact fields_of_legalIfZero h hr (opField_of_toNat ho) fun hz => by rw [argField_split, hz]; rfl
    next ho => exact fields_of_legalIfZero h hr (opField_of_toNat ho) fun hz => by rw [argField_split_half, hz]; rfl
    next ho =>
      exact fields_of_legalIfZero h hr (opField_of_toNat ho) fun hz => by rw [argField_split, middleArg_split, hz]; rfl
    next ho => exact fields_of_legalIfZero h hr (opField_of_toNat ho) id
    next ho => exact fields_of_legalIfZero h hr (opField_of_toNat ho) id
    next => cases h
  next => cases h

/-- Settles O2: the request's encoding is the word's three fields put together. -/
theorem legalWordIsItsRequestsEncoding : Obligations.LegalWordIsItsRequestsEncoding := by
  unfold Obligations.LegalWordIsItsRequestsEncoding
  intro w i h
  obtain ⟨hop, hrsv, harg⟩ := fields_of_decode_legal h
  rw [encode, ← hop, ← hrsv, ← harg, word_of_fields]

/-! The pieces of an encoded request's operand field, and from them the decoder's answer. -/

theorem extractLsb'_encode (i : Instr) {l n : Nat} (h : l + n ≤ 24) :
    (encode i).extractLsb' l n = (operands i).extractLsb' l n :=
  extract_low _ _ _ l n h

theorem getLsbD_encode (i : Instr) {k : Nat} (h : k < 24) : (encode i).getLsbD k = (operands i).getLsbD k :=
  getLsbD_low _ _ _ k h

theorem extractLsb'_append_append_top {l m n : Nat} (a : BitVec l) (b : BitVec m) (c : BitVec n) :
    (a ++ b ++ c).extractLsb' (n + m) l = a := by
  rw [BitVec.extractLsb'_append_eq_of_le (by omega), Nat.add_sub_cancel_left, BitVec.extractLsb'_append_eq_left]

theorem extractLsb'_append_append_middle {l m n : Nat} (a : BitVec l) (b : BitVec m) (c : BitVec n) :
    (a ++ b ++ c).extractLsb' n m = b := by
  rw [BitVec.extractLsb'_append_eq_of_le le_rfl, Nat.sub_self, BitVec.extractLsb'_append_eq_right]

theorem getLsbD_append_ofBool_append {l n : Nat} (a : BitVec l) (b : Bool) (c : BitVec n) :
    (a ++ BitVec.ofBool b ++ c).getLsbD n = b := by
  rw [BitVec.getLsbD_append, if_neg (lt_irrefl n), Nat.sub_self, BitVec.getLsbD_append, if_pos one_pos,
    BitVec.getLsbD_ofBool, decide_eq_true rfl, Bool.true_and]

/-- R71: the must-be-zero bits of a legal request's operand field are those from `freeBits` up. -/
def freeBits : Instr → Nat
  | .initPins => 0
  | .sendNibble _ _ => 9
  | .sendCmd4 _ _ => 24
  | .sendCmd8 _ _ => 24
  | .writeChar _ => 8
  | .writeString _ => 16
  | .moveCursor _ _ => 16
  | .initProcedure => 0
  | .init => 0

theorem freeBits_le (i : Instr) : freeBits i ≤ 24 := by
  cases i <;> simp [freeBits]

theorem extractLsb'_operands_freeBits (i : Instr) :
    (operands i).extractLsb' (freeBits i) (24 - freeBits i) = 0#(24 - freeBits i) := by
  cases i with
  | sendNibble v r => exact extractLsb'_append_append_top 0#15 (BitVec.ofBool r) v
  | sendCmd4 v t => exact BitVec.of_length_zero
  | sendCmd8 c t => exact BitVec.of_length_zero
  | writeChar h => exact BitVec.extractLsb'_append_eq_left
  | writeString a => exact BitVec.extractLsb'_append_eq_left
  | moveCursor x y => exact extractLsb'_append_append_top 0#8 y x
  | _ => rfl

theorem extractLsb'_encode_freeBits (i : Instr) :
    (encode i).extractLsb' (freeBits i) (24 - freeBits i) = 0#(24 - freeBits i) := by
  rw [extractLsb'_encode i (Nat.add_sub_cancel' (freeBits_le i)).le, extractLsb'_operands_freeBits]

/-- Settles O1: the decoder's row for the request's operation code finds its must-be-zero bits zero, and reads its operands
from where the encoder puts them. -/
theorem decodeOfEncodeIsTheRequest : Obligations.DecodeOfEncodeIsTheRequest := by
  unfold Obligations.DecodeOfEncodeIsTheRequest
  intro i
  have hr := rsvField_encode i
  have ho := opField_encode i
  have hz := extractLsb'_encode_freeBits i
  cases i with
  | initPins => exact (decode_initPins hr ho).trans (legalIfZero_eq_legal.2 ⟨hz, rfl⟩)
  | sendNibble v r =>
    have hv : (encode (.sendNibble v r)).extractLsb' 0 8 = v :=
      (extractLsb'_encode _ (by omega)).trans BitVec.extractLsb'_append_eq_right
    have hb : (encode (.sendNibble v r)).getLsbD 8 = r :=
      (getLsbD_encode _ (by omega)).trans (getLsbD_append_ofBool_append 0#15 r v)
    exact (decode_sendNibble hr ho).trans (legalIfZero_eq_legal.2 ⟨hz, by rw [hv, hb]⟩)
  | sendCmd4 v t =>
    have hv : (encode (.sendCmd4 v t)).extractLsb' 0 8 = v :=
      (extractLsb'_encode _ (by omega)).trans BitVec.extractLsb'_append_eq_right
    have ht : (encode (.sendCmd4 v t)).extractLsb' 8 16 = t :=
      (extractLsb'_encode _ (by omega)).trans BitVec.extractLsb'_append_eq_left
    rw [decode_sendCmd4 hr ho, hv, ht]
  | sendCmd8 c t =>
    have hc : (encode (.sendCmd8 c t)).extractLsb' 0 8 = c :=
      (extractLsb'_encode _ (by omega)).trans BitVec.extractLsb'_append_eq_right
    have ht : (encode (.sendCmd8 c t)).extractLsb' 8 16 = t :=
      (extractLsb'_encode _ (by omega)).trans BitVec.extractLsb'_append_eq_left
    rw [decode_sendCmd8 hr ho, hc, ht]
  | writeChar h =>
    have hh : (encode (.writeChar h)).extractLsb' 0 8 = h :=
      (extractLsb'_encode _ (by omega)).trans BitVec.extractLsb'_append_eq_right
    exact (decode_writeChar hr ho).trans (legalIfZero_eq_legal.2 ⟨hz, by rw [hh]⟩)
  | writeString a =>
    have ha : (encode (.writeString a)).extractLsb' 0 16 = a :=
      (extractLsb'_encode _ (by omega)).trans BitVec.extractLsb'_append_eq_right
    exact (decode_writeString hr ho).trans (legalIfZero_eq_legal.2 ⟨hz, by rw [ha]⟩)
  | moveCursor x y =>
    have hx : (encode (.moveCursor x y)).extractLsb' 0 8 = x :=
      (extractLsb'_encode _ (by omega)).trans BitVec.extractLsb'_append_eq_right
    have hy : (encode (.moveCursor x y)).extractLsb' 8 8 = y :=
      (extractLsb'_encode _ (by omega)).trans (extractLsb'_append_append_middle 0#8 y x)
    exact (decode_moveCursor hr ho).trans (legalIfZero_eq_legal.2 ⟨hz, by rw [hx, hy]⟩)
  | initProcedure => exact (decode_initProcedure hr ho).trans (legalIfZero_eq_legal.2 ⟨hz, rfl⟩)
  | init => exact (decode_init hr ho).trans (legalIfZero_eq_legal.2 ⟨hz, rfl⟩)

/-- The round trip in both directions. -/
theorem decode_eq_legal_iff {i : Instr} : decode w = .legal i ↔ encode i = w :=
  ⟨legalWordIsItsRequestsEncoding w i, fun h => h ▸ decodeOfEncodeIsTheRequest i⟩

/-! The rows of the opcode table: masks of ones from bit `k` up. -/

theorem getLsbD_and_mask (k i : Nat) :
    (w &&& (BitVec.allOnes 32 <<< k)).getLsbD i = (w.getLsbD i && decide (k ≤ i)) := by
  rw [BitVec.getLsbD_and, BitVec.getLsbD_shiftLeft, BitVec.getLsbD_allOnes]
  by_cases hi : i < 32
  · simp [hi, show i - k < 32 by omega, ← decide_not]
  · simp [BitVec.getLsbD_of_ge w i (by omega)]

theorem getLsbD_match (c : BitVec 4) (i : Nat) : (c ++ 0#28).getLsbD i = (decide (28 ≤ i) && c.getLsbD (i - 28)) := by
  rw [BitVec.getLsbD_append]
  split <;> simp <;> omega

/-- A word matches a row exactly when its fields meet the row's conditions. -/
theorem and_mask_eq_iff {c : BitVec 4} {k : Nat} (hk : k ≤ 24) : w &&& (BitVec.allOnes 32 <<< k) = c ++ 0#28 ↔
    rsvField w = 0#4 ∧ opField w = c ∧ w.extractLsb' k (24 - k) = 0#(24 - k) := by
  constructor
  · intro h
    have hbit : ∀ i, k ≤ i → w.getLsbD i = (decide (28 ≤ i) && c.getLsbD (i - 28)) := fun i hi => by
      rw [← getLsbD_match, ← h, getLsbD_and_mask, decide_eq_true hi, Bool.and_true]
    refine ⟨?_, ?_, ?_⟩ <;> refine BitVec.eq_of_getLsbD_eq fun i hi => ?_
    · simp only [rsvField, BitVec.getLsbD_extractLsb', hbit (24 + i) (by omega)]
      simp
      omega
    · simp only [opField, BitVec.getLsbD_extractLsb', hbit (28 + i) (by omega)]
      simp [hi]
    · simp only [BitVec.getLsbD_extractLsb', hbit (k + i) (by omega)]
      simp
      omega
  · rintro ⟨hr, rfl, hz⟩
    have hrsv : ∀ j < 4, w.getLsbD (24 + j) = false := fun j hj => by
      simpa [rsvField, hj] using congrArg (·.getLsbD j) hr
    have harg : ∀ j < 24 - k, w.getLsbD (k + j) = false := fun j hj => by
      simpa [hj] using congrArg (·.getLsbD j) hz
    refine BitVec.eq_of_getLsbD_eq fun i hi => ?_
    rw [getLsbD_and_mask, getLsbD_match, opField, BitVec.getLsbD_extractLsb']
    rcases lt_or_ge i k with h₁ | h₁
    · simp [h₁.not_ge]
      omega
    rcases lt_or_ge i 24 with h₂ | h₂
    · rw [show i = k + (i - k) by omega, harg _ (by omega)]
      simp
      omega
    rcases lt_or_ge i 28 with h₃ | h₃
    · rw [show i = 24 + (i - 24) by omega, hrsv _ (by omega)]
      simp
      omega
    · simp [h₁, h₃, show i - 28 < 4 by omega]

theorem encode_matches_row (i : Instr) :
    encode i &&& (BitVec.allOnes 32 <<< freeBits i) = opcode i ++ 0#28 :=
  (and_mask_eq_iff (freeBits_le i)).2 ⟨rsvField_encode i, opField_encode i, extractLsb'_encode_freeBits i⟩

/-- The rows of the opcode table, each as the number of its free low bits and its operation code. -/
def rowFields : List (Nat × BitVec 4) :=
  [(0, 0x1#4), (9, 0x2#4), (24, 0x3#4), (24, 0x4#4), (8, 0x5#4), (16, 0x6#4), (16, 0x7#4), (0, 0x8#4), (0, 0x9#4)]

theorem opcodeRows_eq : opcodeRows = rowFields.map fun x => (BitVec.allOnes 32 <<< x.1, x.2 ++ 0#28) := rfl

theorem mem_opcodeRows {row : Word × Word} :
    row ∈ opcodeRows ↔ ∃ k c, (k, c) ∈ rowFields ∧ row = (BitVec.allOnes 32 <<< k, c ++ 0#28) := by
  simp [opcodeRows_eq, eq_comm]

theorem mem_rowFields (i : Instr) : (freeBits i, opcode i) ∈ rowFields := by
  cases i <;> simp [freeBits, opcode, rowFields]

theorem le_of_mem_rowFields {k : Nat} {c : BitVec 4} (h : (k, c) ∈ rowFields) : k ≤ 24 := by
  have hall : ∀ x ∈ rowFields, x.1 ≤ 24 := by decide
  exact hall _ h

/-- The decoder has a row for each row of the table. -/
theorem legal_of_fields {k : Nat} {c : BitVec 4} (h : (k, c) ∈ rowFields) (hr : rsvField w = 0#4) (ho : opField w = c)
    (hz : w.extractLsb' k (24 - k) = 0#(24 - k)) : ∃ i, decode w = .legal i := by
  simp only [rowFields, List.mem_cons, List.not_mem_nil, or_false, Prod.mk.injEq] at h
  obtain ⟨rfl, rfl⟩ | ⟨rfl, rfl⟩ | ⟨rfl, rfl⟩ | ⟨rfl, rfl⟩ | ⟨rfl, rfl⟩ | ⟨rfl, rfl⟩ | ⟨rfl, rfl⟩ | ⟨rfl, rfl⟩ |
    ⟨rfl, rfl⟩ := h
  · exact ⟨_, (decode_initPins hr ho).trans (legalIfZero_eq_legal.2 ⟨hz, rfl⟩)⟩
  · exact ⟨_, (decode_sendNibble hr ho).trans (legalIfZero_eq_legal.2 ⟨hz, rfl⟩)⟩
  · exact ⟨_, decode_sendCmd4 hr ho⟩
  · exact ⟨_, decode_sendCmd8 hr ho⟩
  · exact ⟨_, (decode_writeChar hr ho).trans (legalIfZero_eq_legal.2 ⟨hz, rfl⟩)⟩
  · exact ⟨_, (decode_writeString hr ho).trans (legalIfZero_eq_legal.2 ⟨hz, rfl⟩)⟩
  · exact ⟨_, (decode_moveCursor hr ho).trans (legalIfZero_eq_legal.2 ⟨hz, rfl⟩)⟩
  · exact ⟨_, (decode_initProcedure hr ho).trans (legalIfZero_eq_legal.2 ⟨hz, rfl⟩)⟩
  · exact ⟨_, (decode_init hr ho).trans (legalIfZero_eq_legal.2 ⟨hz, rfl⟩)⟩

end

/-- Settles O3: a legal word is an encoding, which matches its request's row; the decoder has a row for each row of the table;
and no two rows have the same operation code. -/
theorem legalExactlyOnOpcodeRows : Obligations.LegalExactlyOnOpcodeRows := by
  unfold Obligations.LegalExactlyOnOpcodeRows
  constructor
  · intro w
    constructor
    · rintro ⟨i, h⟩
      obtain rfl := decode_eq_legal_iff.1 h
      exact ⟨_, mem_opcodeRows.2 ⟨_, _, mem_rowFields i, rfl⟩, encode_matches_row i⟩
    · rintro ⟨row, hrow, h⟩
      obtain ⟨k, c, hkc, rfl⟩ := mem_opcodeRows.1 hrow
      obtain ⟨hr, ho, hz⟩ := (and_mask_eq_iff (le_of_mem_rowFields hkc)).1 h
      exact legal_of_fields hkc hr ho hz
  · intro w r₁ h₁ r₂ h₂ hw₁ hw₂
    obtain ⟨k₁, c₁, hkc₁, rfl⟩ := mem_opcodeRows.1 h₁
    obtain ⟨k₂, c₂, hkc₂, rfl⟩ := mem_opcodeRows.1 h₂
    obtain ⟨-, ho₁, -⟩ := (and_mask_eq_iff (le_of_mem_rowFields hkc₁)).1 hw₁
    obtain ⟨-, ho₂, -⟩ := (and_mask_eq_iff (le_of_mem_rowFields hkc₂)).1 hw₂
    have hdistinct : ∀ x ∈ rowFields, ∀ y ∈ rowFields, x.2 = y.2 → x = y := by decide
    cases hdistinct _ hkc₁ _ hkc₂ (ho₁.symm.trans ho₂)
    rfl

/-! The high nibble of `v` (R76). -/

section
variable (v : Byte) (n : Nibble)

theorem lo_append_lo : lo (n ++ lo v) = lo v := BitVec.extractLsb'_append_eq_right

/-- A word whose operand field ends in the byte `v`, cut before `v`. -/
theorem fields_append_byte (c b : BitVec 4) (a : BitVec 16) :
    c ++ b ++ (a ++ v : BitVec 24) = (c ++ b ++ a : BitVec 24) ++ v :=
  (BitVec.append_assoc (x₁ := c ++ b) (x₂ := a) (x₃ := v)).symm

/-- Bits 7 to 4 of such a word replaced by `n`. -/
theorem replace_high_nibble (c b : BitVec 4) (a : BitVec 16) :
    (c ++ b ++ (a ++ v : BitVec 24) : Word).extractLsb' 8 24 ++ n ++ (c ++ b ++ (a ++ v : BitVec 24) : Word).extractLsb' 0 4 =
      c ++ b ++ (a ++ (n ++ lo v : Byte) : BitVec 24) := by
  have htop : ((c ++ b ++ a : BitVec 24) ++ v).extractLsb' 8 24 = c ++ b ++ a := BitVec.extractLsb'_append_eq_left
  have hlow : ((c ++ b ++ a : BitVec 24) ++ v).extractLsb' 0 4 = lo v :=
    BitVec.extractLsb'_append_eq_of_add_le (by omega)
  rw [fields_append_byte, fields_append_byte, htop, hlow]
  exact BitVec.append_assoc

theorem decode_replace_high_nibble {w : Word} {i j : Instr} (a : BitVec 16) (h : decode w = .legal i)
    (hi : operands i = a ++ v) (hj : operands j = a ++ (n ++ lo v : Byte)) (hop : opcode j = opcode i) :
    decode (w.extractLsb' 8 24 ++ n ++ w.extractLsb' 0 4) = .legal j := by
  obtain rfl := decode_eq_legal_iff.1 h
  rw [decode_eq_legal_iff, encode, encode, hi, hj, hop, replace_high_nibble]

end

/-- Settles O6: the word with the nibble replaced is the encoding of the request with the nibble replaced, and the micro-op
list is made from the low nibble alone. -/
theorem valueHighNibbleReachesNoLine : Obligations.ValueHighNibbleReachesNoLine := by
  unfold Obligations.ValueHighNibbleReachesNoLine
  refine ⟨fun w n v r h => ?_, fun w n v t h => ?_, fun v n r s => ?_, fun v n t s => ?_⟩
  · exact decode_replace_high_nibble v n (0#15 ++ BitVec.ofBool r) h rfl rfl rfl
  · exact decode_replace_high_nibble v n t h rfl rfl rfl
  · refine ⟨_, _, exec_eq _ _, exec_eq _ _, ?_⟩
    simp [startOp, expand, opcode, lo_append_lo]
  · refine ⟨_, _, exec_eq _ _, exec_eq _ _, ?_⟩
    simp [startOp, expand, cmd4, opcode, lo_append_lo]

/-- Settles O7, by running the decoder on the spec's words. -/
theorem specWordsDecode : Obligations.SpecWordsDecode := by
  unfold Obligations.SpecWordsDecode
  decide

/-! The assembler (R80, R81). -/

theorem toNat_append_eq_add {m n : Nat} (x : BitVec m) (y : BitVec n) : (x ++ y).toNat = 2 ^ n * x.toNat + y.toNat := by
  rw [BitVec.toNat_append, ← Nat.shiftLeft_add_eq_or_of_lt y.isLt, Nat.shiftLeft_eq, Nat.mul_comm]

/-- The word of a request as a number (R70). -/
theorem toNat_encode (i : Instr) : (encode i).toNat = 2 ^ 28 * (opcode i).toNat + (operands i).toNat := by
  rw [encode, toNat_append_eq_add, toNat_append_eq_add, BitVec.toNat_ofNat]
  omega

theorem toNat_operands_sendNibble (v : Byte) (r : Bool) :
    (operands (.sendNibble v r)).toNat = 2 ^ 8 * r.toNat + v.toNat := by
  refine (toNat_append_eq_add _ v).trans ?_
  rw [toNat_append_eq_add, BitVec.toNat_ofBool, BitVec.toNat_ofNat, Nat.zero_mod, Nat.mul_zero, Nat.zero_add]

theorem toNat_operands_sendCmd4 (v : Byte) (t : Half) : (operands (.sendCmd4 v t)).toNat = 2 ^ 8 * t.toNat + v.toNat :=
  toNat_append_eq_add t v

theorem toNat_operands_sendCmd8 (c : Byte) (t : Half) : (operands (.sendCmd8 c t)).toNat = 2 ^ 8 * t.toNat + c.toNat :=
  toNat_append_eq_add t c

theorem toNat_operands_writeChar (h : Byte) : (operands (.writeChar h)).toNat = h.toNat := by
  refine (toNat_append_eq_add 0#16 h).trans ?_
  simp

theorem toNat_operands_writeString (a : Half) : (operands (.writeString a)).toNat = a.toNat := by
  refine (toNat_append_eq_add 0#8 a).trans ?_
  simp

theorem toNat_operands_moveCursor (x y : Byte) : (operands (.moveCursor x y)).toNat = 2 ^ 8 * y.toNat + x.toNat := by
  refine (toNat_append_eq_add (0#8 ++ y) x).trans ?_
  rw [toNat_append_eq_add]
  simp

theorem toNat_ofNat_of_fits {w n : Nat} (h : decide (n < 2 ^ w) = true) : (BitVec.ofNat w n).toNat = n := by
  rw [BitVec.toNat_ofNat, Nat.mod_eq_of_lt (of_decide_eq_true h)]

theorem toNat_beq_one {r : Nat} (h : decide (r < 2 ^ 1) = true) : (r == 1).toNat = r := by
  have hr : r = 0 ∨ r = 1 := by have := of_decide_eq_true h; omega
  obtain rfl | rfl := hr <;> rfl

theorem assemble_eq_some_iff {l : Asm} {i : Instr} : l.assemble = some i ↔ l.wellFormed = true ∧ l.request = i := by
  simp [Asm.assemble]

theorem wellFormed_expand (l : Asm) : l.expand.wellFormed = l.wellFormed := by
  cases l <;> simp [Asm.expand, Asm.wellFormed]

theorem request_expand (l : Asm) : l.expand.request = l.request := by
  cases l <;> rfl

/-- The word of an assembled line, with what its numbers' fitting says. -/
theorem toNat_encode_of_assemble {l : Asm} {i : Instr} (h : l.assemble = some i) :
    l.wellFormed = true ∧ (encode i).toNat = 2 ^ 28 * (opcode l.request).toNat + (operands l.request).toNat := by
  obtain ⟨hwf, rfl⟩ := assemble_eq_some_iff.1 h
  exact ⟨hwf, toNat_encode _⟩

/-- Settles O8: where every number fits its field, the field has the number's value. -/
theorem assemblerNeverTruncates : Obligations.AssemblerNeverTruncates := by
  unfold Obligations.AssemblerNeverTruncates
  refine ⟨fun l => ?_, fun l => ?_, fun v r i h => ?_, fun v t i h => ?_, fun c t i h => ?_, fun c i h => ?_,
    fun a i h => ?_, fun x y i h => ?_⟩
  · simp [assemble_eq_some_iff]
  · rw [Asm.assemble, Asm.assemble, wellFormed_expand, request_expand]
  all_goals
    obtain ⟨hwf, hword⟩ := toNat_encode_of_assemble h
    simp only [Asm.wellFormed, Bool.and_eq_true] at hwf
    rw [hword, Asm.request, opcode]
  · rw [toNat_operands_sendNibble, toNat_ofNat_of_fits hwf.1, toNat_beq_one hwf.2]
    exact (Nat.add_assoc _ _ _).symm
  · rw [toNat_operands_sendCmd4, toNat_ofNat_of_fits hwf.1, toNat_ofNat_of_fits hwf.2]
    exact (Nat.add_assoc _ _ _).symm
  · rw [toNat_operands_sendCmd8, toNat_ofNat_of_fits hwf.1, toNat_ofNat_of_fits hwf.2]
    exact (Nat.add_assoc _ _ _).symm
  · rw [toNat_operands_writeChar, toNat_ofNat_of_fits hwf]
    rfl
  · rw [toNat_operands_writeString, toNat_ofNat_of_fits hwf]
    rfl
  · rw [toNat_operands_moveCursor, toNat_ofNat_of_fits hwf.1, toNat_ofNat_of_fits hwf.2]
    exact (Nat.add_assoc _ _ _).symm

end Sys2Proof
end

section
/-!
What an edge writes and what it keeps (40_pins_and_nibble.md R101, R108): the accepting edge of each request, the request
port, the errors, the string memory, and the registers that have one writer each.
-/

namespace Sys2Proof.Machine

/-- What accepting the legal request `i` writes, and that all else is as it was (R108). -/
structure Started (i : Instr) (s t : State) : Prop where
  busy : t.busy = true
  seq : t.seq = expand Config.hw i
  op : t.rqOp = opcode i
  arg : t.rqArg = operands i
  errN : t.errNopins = (s.errNopins || (needsPins i && !s.pinsCfg))
  string : ∀ a, i = .writeString a → t.strBase = a ∧ t.strIdx = 0
  noString : (∀ a, i ≠ .writeString a) → t.strBase = s.strBase ∧ t.strIdx = s.strIdx
  errI : t.errIllegal = s.errIllegal
  lcd : t.lcdSide = s.lcdSide
  strByte : t.strByte = s.strByte
  memAddrQ : t.memAddrQ = s.memAddrQ
  memRdQ : t.memRdQ = s.memRdQ
  mem : t.mem = s.mem
  inputs : t.inputs = s.inputs
  overwritten : t.overwritten = s.overwritten
  draws : t.draws = s.draws
  cycle : t.cycle = s.cycle
  reads : t.reads = s.reads

/-- `exec_eq`, by the field lemmas of the updates it is made of. -/
theorem exec_started (i : Instr) (s : State) : ∃ t, exec i s = .next t ∧ Started i s t := by
  refine ⟨_, exec_eq i s, ?_⟩
  cases i <;> constructor <;> simp [State.lcdSide, needsPins]

theorem started_of_exec {i : Instr} {s t : State} (h : exec i s = .next t) : Started i s t := by
  obtain ⟨u, hu, hstart⟩ := exec_started i s
  cases hu.symm.trans h
  exact hstart

theorem expand_ne_nil (i : Instr) : expand Config.hw i ≠ [] := by
  cases i <;> simp [expand, cmd4, cmd8, chr, initSeq, nib_hw]

/-- Settles O9: `Started`, field by field. -/
theorem acceptedRequestEffectAndFrame : Obligations.AcceptedRequestEffectAndFrame := by
  unfold Obligations.AcceptedRequestEffectAndFrame
  intro i s
  obtain ⟨t, hexec, h⟩ := exec_started i s
  obtain ⟨hd, hrs, he, hlatches⟩ := registers_of_lcdSide h.lcd
  have hpins : t.pinsCfg = s.pinsCfg := congrArg LcdSide.pins h.lcd
  exact ⟨t, hexec, h.busy, h.seq, h.seq ▸ expand_ne_nil i, h.op, h.arg, h.errN, h.string, h.noString, h.errI, hpins, hd,
    hrs, he, h.strByte, h.memAddrQ, h.memRdQ, fun a => by rw [h.mem], h.inputs, h.overwritten, h.draws, h.cycle, hlatches,
    h.reads⟩

/-- Settles O12: the pin check is all that reads `pins_cfg`, and it writes the sticky bit alone. -/
theorem transferBeforePinConfigOnlyRecordsIt : Obligations.TransferBeforePinConfigOnlyRecordsIt := by
  unfold Obligations.TransferBeforePinConfigOnlyRecordsIt
  intro i s
  refine ⟨_, _, exec_eq _ _, exec_eq _ _, ?_⟩
  cases i <;> simp [startOp, startString, checkPins, raiseError, needsPins]

/-- Settles O13: at such an edge `step` takes the branch of a legal request. -/
theorem stepRunsTheDecodedRequest : Obligations.StepRunsTheDecodedRequest := by
  unfold Obligations.StepRunsTheDecodedRequest
  rintro s i ⟨hr, hb, hv, hd⟩
  simp [step, blockEdge, accept, hr, hb, hv, hd]

/-- The accepting edge of a request. -/
theorem step_of_accepts {s : State} {i : Instr} (h : Accepts s i) :
    ∃ u, step s = .next (passEdge u) ∧ Started i (agentWrites s.edge s) u := by
  obtain ⟨u, hexec, hstart⟩ := exec_started i (agentWrites s.edge s)
  exact ⟨u, by rw [stepRunsTheDecodedRequest s i h, hexec, endEdge], hstart⟩

/-- Settles O10: the latch takes the fields of the request's encoding, which is the word. -/
theorem requestLatchHoldsTheWord : Obligations.RequestLatchHoldsTheWord := by
  unfold Obligations.RequestLatchHoldsTheWord
  intro s i h
  obtain ⟨u, hstep, hstart⟩ := step_of_accepts h
  obtain ⟨-, -, -, hd⟩ := h
  obtain ⟨hop, -, harg⟩ := fields_of_decode_legal hd
  exact ⟨_, hstep, hstart.op.trans hop.symm, hstart.arg.trans harg.symm⟩

/-- Settles O11: at such an edge `step` takes the branch of an illegal word. -/
theorem illegalRequestSetsOnlyItsError : Obligations.IllegalRequestSetsOnlyItsError := by
  unfold Obligations.IllegalRequestSetsOnlyItsError
  intro s why hr hb hv hd
  simp [step, blockEdge, accept, hr, hb, hv, hd, endEdge, raiseError]

theorem step_of_idle {s : State} (hr : s.edge.rst = false) (hb : s.busy = false) (hv : s.edge.reqValid = false) :
    step s = .next (passEdge (agentWrites s.edge s)) := by
  simp [step, blockEdge, hr, hb, hv, endEdge]

/-- Settles O14: the other agents' writes and the passing of the edge leave the registers and the observation. -/
theorem idleEdgeChangesNothing : Obligations.IdleEdgeChangesNothing := by
  unfold Obligations.IdleEdgeChangesNothing
  intro s hr hb hv
  exact ⟨_, step_of_idle hr hb hv, by simp [SameRegisters], by simp, by simp, rfl, by simp, by simp⟩

/-! The request port of a busy or resetting block (R220, R221): no operation reads the wires that the state holds. -/

/-- `s` with other wires for the coming edges. -/
def State.withInputs (es : List Edge) (s : State) : State := { s with inputs := es }

section
variable (s : State) (es : List Edge)

theorem foldl_writeByAgent_withInputs (ws : List (Half × Byte)) :
    ws.foldl writeByAgent (s.withInputs es) = (ws.foldl writeByAgent s).withInputs es := by
  induction ws generalizing s with
  | nil => rfl
  | cons w ws ih => exact ih (writeByAgent s w)

theorem agentWrites_withInputs (e : Edge) : agentWrites e (s.withInputs es) = (agentWrites e s).withInputs es :=
  foldl_writeByAgent_withInputs { s with overwritten := if s.busy then s.overwritten else [] } es e.memWrites

theorem microEdge_withInputs (p : Params) (m : MicroOp) (ms : List MicroOp) :
    microEdge p m ms (s.withInputs es) = (microEdge p m ms s).withInputs es := by
  cases m with
  | eLo => cases hp : s.pinsCfg <;> simp [microEdge, emitLatch, State.withInputs, hp]
  | _ => rfl

theorem settle_withInputs : settle (s.withInputs es) = (settle s).withInputs es := by
  cases hs : s.seq with
  | nil =>
    rw [settle_nil (s.withInputs es) hs, settle_nil s hs]
    rfl
  | cons m ms => rw [settle_cons (s.withInputs es) m ms hs, settle_cons s m ms hs]

theorem runEdge_withInputs (p : Params) :
    endEdge (runEdge p (s.withInputs es)) = andThen (runEdge p s) fun u => .next (passEdge (u.withInputs es)) := by
  cases hs : s.seq with
  | nil => simp [runEdge, hs, State.withInputs, endEdge, andThen]
  | cons m ms =>
    rw [runEdge_cons p (s.withInputs es) m ms hs, runEdge_cons p s m ms hs, microEdge_withInputs, settle_withInputs]
    rfl

/-- The edge of a busy or resetting block, from the level of `rst` and the other agents' writes alone. -/
theorem step_withInputs {e : Edge} (h : s.busy = true ∨ e.rst = true) :
    step (s.withInputs (e :: es)) =
      andThen (if e.rst then .next (resetBlock (agentWrites e s)) else runEdge Config.hw (agentWrites e s))
        fun u => .next { u with inputs := es, cycle := u.cycle + 1 } := by
  have hedge : (s.withInputs (e :: es)).edge = e := rfl
  rw [step, hedge, agentWrites_withInputs, blockEdge]
  cases hr : e.rst with
  | true => rfl
  | false =>
    have hb : ((agentWrites e s).withInputs (e :: es)).busy = true := by
      rw [State.withInputs, agentWrites_busy]
      simpa [hr] using h
    rw [hb]
    exact runEdge_withInputs _ _ _

end

/-- Settles O15: `step_withInputs` for both edges. -/
theorem busyBlockIgnoresTheRequestPort : Obligations.BusyBlockIgnoresTheRequestPort := by
  unfold Obligations.BusyBlockIgnoresTheRequestPort
  intro s e₁ e₂ es h hr hw
  have hwrites : agentWrites e₁ s = agentWrites e₂ s := by rw [agentWrites, agentWrites, hw]
  change step (s.withInputs (e₁ :: es)) = step (s.withInputs (e₂ :: es))
  rw [step_withInputs s es h, step_withInputs s es (hr ▸ h), hr, hwrites]

/-! What every edge does to the string memory and the errors. -/

section
variable {s t : State} (h : step s = .next t)
include h

theorem step_mem : t.mem = (agentWrites s.edge s).mem := by
  obtain ⟨-, rfl⟩ | ⟨-, -, m, ms, -, rfl⟩ | ⟨-, -, -, -, rfl⟩ | ⟨-, -, -, i, u, -, hu, rfl⟩ | ⟨-, -, -, rfl⟩ :=
    step_cases h
  · simp
  · simp [microEdge_frame]
  · simp
  · exact (started_of_exec hu).mem
  · simp

/-- Each error at an edge with `rst = 0`. -/
theorem step_errors (hr : s.edge.rst = false) :
    (t.errIllegal = s.errIllegal ∧ t.errNopins = s.errNopins) ∨
    s.busy = false ∧ s.edge.reqValid = true ∧
      ((∃ why, decode s.edge.reqWord = .illegal why) ∧ t.errIllegal = true ∧ t.errNopins = s.errNopins ∨
       ∃ i, decode s.edge.reqWord = .legal i ∧ t.errIllegal = s.errIllegal ∧
         t.errNopins = (s.errNopins || (needsPins i && !s.pinsCfg))) := by
  obtain ⟨hr', -⟩ | ⟨-, -, m, ms, -, rfl⟩ | ⟨-, hb, hv, hd, rfl⟩ | ⟨-, hb, hv, i, u, hd, hu, rfl⟩ | ⟨-, -, -, rfl⟩ :=
    step_cases h
  · simp [hr'] at hr
  · exact .inl (by simp [microEdge_frame])
  · exact .inr ⟨hb, hv, .inl ⟨hd, by simp, by simp⟩⟩
  · have hstart := started_of_exec hu
    exact .inr ⟨hb, hv, .inr ⟨i, hd, by simpa using hstart.errI, by simpa using hstart.errN⟩⟩
  · exact .inl (by simp)

end

/-- Settles O18, by `step_mem`. -/
theorem blockWritesNoMemory : Obligations.BlockWritesNoMemory := by
  unfold Obligations.BlockWritesNoMemory
  intro s t h
  refine ⟨step_mem h, fun hw a => ?_⟩
  rw [step_mem h, agentWrites_of_none _ _ hw]

/-- Settles O19, by `step_errors` and the registers after a reset edge. -/
theorem errorBitsAreSticky : Obligations.ErrorBitsAreSticky := by
  unfold Obligations.ErrorBitsAreSticky
  intro s t h
  constructor
  · intro hr
    obtain ⟨hi, hn⟩ | ⟨-, -, ⟨-, hi, hn⟩ | ⟨i, -, hi, hn⟩⟩ := step_errors h hr <;> simp +contextual [hi, hn]
  · intro hr
    obtain ⟨-, -, -, -, -, hi, hn, -⟩ := sameRegisters_reset_of_step hr h
    exact ⟨hi, hn⟩

/-- Settles O20, by `step_errors`. -/
theorem errorsRiseOnlyAtAcceptingEdges : Obligations.ErrorsRiseOnlyAtAcceptingEdges := by
  unfold Obligations.ErrorsRiseOnlyAtAcceptingEdges
  intro s t h
  cases hr : s.edge.rst with
  | true =>
    obtain ⟨-, -, -, -, -, hi, hn, -⟩ := sameRegisters_reset_of_step hr h
    simp [hi, hn, State.reset]
  | false =>
    obtain ⟨hi, hn⟩ | ⟨hb, hv, ⟨hd, hi, hn⟩ | ⟨i, hd, hi, hn⟩⟩ := step_errors h hr
    · simp +contextual [hi, hn]
    · exact ⟨fun _ _ => ⟨rfl, hb, hv, hd, hn⟩, by simp +contextual [hn]⟩
    · refine ⟨by simp +contextual [hi], fun h₀ h₁ => ?_⟩
      simp only [hn, h₀, Bool.false_or, Bool.and_eq_true, Bool.not_eq_true'] at h₁
      exact ⟨rfl, hb, hv, h₁.2, ⟨i, hd, h₁.1⟩, hi⟩

/-! Registers with one writer each (R23 to R26, R31, R32). -/

/-- Settles O21: an idle edge keeps the LCD side, and of the micro-ops each register has one writer. -/
theorem lineRegistersHaveOneWriterEach : Obligations.LineRegistersHaveOneWriterEach := by
  unfold Obligations.LineRegistersHaveOneWriterEach
  intro s t h hr
  cases hb : s.busy with
  | false =>
    have hlcd := step_idle_lcdSide h hr hb
    have hpins : t.pinsCfg = s.pinsCfg := congrArg LcdSide.pins hlcd
    obtain ⟨hd, hrs, he, -⟩ := registers_of_lcdSide hlcd
    simp [hpins, hd, hrs, he]
  | true =>
    obtain ⟨m, ms, hs, rfl⟩ := step_busy_microEdge h hr hb
    have hlcd := runningEdge_lcdSide m ms s
    have hpins := congrArg LcdSide.pins hlcd
    obtain ⟨hd, hrs, he, -⟩ := registers_of_lcdSide hlcd
    rw [lcdSide_pins] at hpins
    rw [hpins, hd, hrs, he, hs]
    cases m <;> simp [MicroOp.moveLcd]

/-- The string registers at an edge of an idle block: only the acceptance of a string write changes any, and of them only the
string engine's start and index. -/
theorem step_idle_string {s t : State} (h : step s = .next t) (hr : s.edge.rst = false) (hb : s.busy = false) :
    t.memAddrQ = s.memAddrQ ∧ t.memRdQ = s.memRdQ ∧ t.strByte = s.strByte ∧
      (t.strIdx = s.strIdx ∧ t.strBase = s.strBase ∨
        ∃ a, Accepts s (.writeString a) ∧ t.strBase = a ∧ t.strIdx = 0) := by
  obtain ⟨hr', -⟩ | ⟨-, hb', -⟩ | ⟨-, -, -, -, rfl⟩ | ⟨-, -, hv, i, u, hd, hu, rfl⟩ | ⟨-, -, -, rfl⟩ :=
    step_cases h
  · simp [hr'] at hr
  · simp [hb'] at hb
  · simp
  · have hstart := started_of_exec hu
    refine ⟨by simpa using hstart.memAddrQ, by simpa using hstart.memRdQ, by simpa using hstart.strByte, ?_⟩
    by_cases hi : ∃ a, i = .writeString a
    · obtain ⟨a, rfl⟩ := hi
      exact .inr ⟨a, ⟨hr, hb, hv, hd⟩, hstart.string a rfl⟩
    · obtain ⟨hbase, hidx⟩ := hstart.noString fun a ha => hi ⟨a, ha⟩
      exact .inl ⟨by simpa using hidx, by simpa using hbase⟩
  · simp

/-- Settles O23: `step_idle_string` for an idle block; of the micro-ops only the two of a string read write any of them. -/
theorem stringRegistersHaveTheirWriters : Obligations.StringRegistersHaveTheirWriters := by
  unfold Obligations.StringRegistersHaveTheirWriters
  intro s t h hr
  cases hb : s.busy with
  | false =>
    obtain ⟨haddr, hrd, hbyte, hsame | ⟨a, hacc, hbase, hidx⟩⟩ := step_idle_string h hr hb
    · simp [haddr, hrd, hbyte, hsame]
    · simp only [haddr, hrd, hbyte, hbase, hidx]
      exact ⟨by simp, by simp, by simp, by simp [hacc], fun _ => hacc⟩
  | true =>
    obtain ⟨m, ms, hs, ht⟩ := step_busy_microEdge h hr hb
    rw [hs]
    by_cases hm : m = .rdIssue ∨ m = .rdCap
    · subst ht
      obtain rfl | rfl := hm
      · simp [microEdge]
      · simp +contextual [microEdge]
    · simp only [not_or] at hm
      have hmoved : Moved 1 s t := ht ▸ moved_microEdge hm.1 hm.2
      obtain ⟨hbase, hidx, hbyte, haddr, hrd, -⟩ := hmoved.str
      simp [hbase, hidx, hbyte, haddr, hrd, hm.1, hm.2]

end Sys2Proof.Machine
end

section
/-!
The invariant of the machine (10_state.md R30, R31; 40_pins_and_nibble.md R101, R105, R106): it holds after reset, every edge
keeps it, and with it the micro-op at the head of `seq` tells the levels of E and of the read strobe and what stands behind it.
-/

namespace Sys2Proof.Machine

/-! What `seqOk` says of the head of the list, one lemma per micro-op. -/

section
variable {p : Params} {e rd : Bool} {ms : List MicroOp}

theorem seqOk_pins (h : seqOk p e rd (.pins :: ms) = true) : e = false ∧ rd = false ∧ framed p ms = true := by
  simpa [seqOk, framed, and_assoc] using h

theorem seqOk_setD {n : Nibble} (h : seqOk p e rd (.setD n :: ms) = true) : e = false ∧ rd = false ∧
    ∃ b ms', ms = .setRs b :: .eHi :: .wait p.strobeCycles :: .eLo :: ms' ∧ framed p ms' = true := by
  simp only [seqOk, Bool.and_eq_true, Bool.not_eq_true'] at h
  obtain ⟨⟨he, hrd⟩, hframed⟩ := h
  unfold framed at hframed
  split at hframed <;> simp_all

theorem seqOk_setRs {b : Bool} (h : seqOk p e rd (.setRs b :: ms) = true) : e = false ∧ rd = false ∧
    ∃ ms', ms = .eHi :: .wait p.strobeCycles :: .eLo :: ms' ∧ framed p ms' = true := by
  unfold seqOk at h
  split at h <;> simp_all [framed]

theorem seqOk_eHi (h : seqOk p e rd (.eHi :: ms) = true) : e = false ∧ rd = false ∧
    ∃ ms', ms = .wait p.strobeCycles :: .eLo :: ms' ∧ framed p ms' = true := by
  unfold seqOk at h
  split at h <;> simp_all [framed]

theorem seqOk_eLo (h : seqOk p e rd (.eLo :: ms) = true) : e = true ∧ rd = false ∧ framed p ms = true := by
  unfold seqOk at h
  split at h <;> simp_all

/-- A wait is the strobe's, with E high, or stands between transfers. -/
theorem seqOk_wait {c : Nat} (h : seqOk p e rd (.wait c :: ms) = true) : rd = false ∧ 1 ≤ c ∧
    (e = true ∧ (∃ ms', ms = .eLo :: ms' ∧ framed p ms' = true) ∨ e = false ∧ framed p ms = true) := by
  unfold seqOk at h
  split at h <;> simp_all [framed]

theorem seqOk_rdIssue (h : seqOk p e rd (.rdIssue :: ms) = true) : e = false ∧ rd = false ∧ ms = [.rdCap] := by
  simp only [seqOk, Bool.and_eq_true, Bool.not_eq_true'] at h
  obtain ⟨⟨he, hrd⟩, hframed⟩ := h
  unfold framed at hframed
  split at hframed <;> simp_all

theorem seqOk_of_memRdQ {l : List MicroOp} (h : seqOk p e true l = true) : l = [.rdCap] := by
  unfold seqOk at h
  split at h <;> simp_all

end

/-! After reset. -/

theorem inv_of_reset_registers {t : State} (hmem : t.mem.wf = true) (h : SameRegisters State.reset t) : t.Inv := by
  obtain ⟨hb, -, -, -, he, -, -, -, -, hs, -, hidx, -, -, hrd⟩ := h
  refine ⟨hmem, by rw [hb, hs]; rfl, by rw [he, hrd, hs]; rfl, by rw [hidx]; exact Nat.zero_le _, ?_⟩
  simp [hs, State.reset]

/-- Settles O24: the registers are those of `State.reset`, and no memory contents are known. -/
theorem resetMeetsTheInvariant : Obligations.ResetMeetsTheInvariant := by
  unfold Obligations.ResetMeetsTheInvariant
  exact inv_of_reset_registers rfl (by simp [SameRegisters])

/-! What the invariant says of an idle block, and of the accepting edge. -/

theorem State.Inv.seq_of_idle {s : State} (hi : s.Inv) (hb : s.busy = false) : s.seq = [] := by
  obtain ⟨-, hbusy, -⟩ := hi
  simpa [hb] using hbusy

theorem State.Inv.seqOk_cons {s : State} (hi : s.Inv) {m : MicroOp} {ms : List MicroOp} (hs : s.seq = m :: ms) :
    seqOk Config.hw s.eQ s.memRdQ (m :: ms) = true := by
  obtain ⟨-, -, hok, -⟩ := hi
  exact hs ▸ hok

theorem State.Inv.memRdQ_of_idle {s : State} (hi : s.Inv) (hb : s.busy = false) : s.memRdQ = false := by
  obtain ⟨-, -, hok, -⟩ := id hi
  rw [hi.seq_of_idle hb] at hok
  simp only [seqOk, Bool.and_eq_true, Bool.not_eq_true'] at hok
  exact hok.1.2

theorem rdCap_not_mem_nib (n : Nibble) (r : Bool) : MicroOp.rdCap ∉ nib Config.hw n r := by
  simp [nib_hw]

theorem rdCap_not_mem_dly (p : Params) (t : Nat) : MicroOp.rdCap ∉ dly p t := by
  unfold dly
  split <;> simp

theorem rdCap_not_mem_cmd4 (v : Byte) (t : Nat) : MicroOp.rdCap ∉ cmd4 Config.hw v t := by
  simp [cmd4, rdCap_not_mem_nib, rdCap_not_mem_dly]

theorem rdCap_not_mem_cmd8 (c : Byte) (t : Nat) : MicroOp.rdCap ∉ cmd8 Config.hw c t := by
  simp [cmd8, rdCap_not_mem_nib, rdCap_not_mem_dly]

theorem rdCap_not_mem_chr (h : Byte) : MicroOp.rdCap ∉ chr Config.hw h := by
  simp [chr, rdCap_not_mem_nib, rdCap_not_mem_dly]

/-- Only a string write reads the string memory. -/
theorem writeString_of_rdCap_mem {i : Instr} (h : .rdCap ∈ expand Config.hw i) : ∃ a, i = .writeString a := by
  cases i with
  | writeString a => exact ⟨a, rfl⟩
  | _ => simp [expand, initSeq, rdCap_not_mem_nib, rdCap_not_mem_dly, rdCap_not_mem_cmd4, rdCap_not_mem_cmd8,
      rdCap_not_mem_chr] at h

theorem Started.inv {i : Instr} {s t : State} (h : Started i s t) (hi : s.Inv) (hb : s.busy = false) : t.Inv := by
  obtain ⟨-, -, he, -⟩ := registers_of_lcdSide h.lcd
  have hlow : t.eQ = false := he.trans (hi.eQ_of_idle hb)
  have hrd : t.memRdQ = false := h.memRdQ.trans (hi.memRdQ_of_idle hb)
  obtain ⟨hmem, -, -, hidx, -⟩ := hi
  refine ⟨h.mem ▸ hmem, by simp [h.busy, h.seq, expand_ne_nil], ?_, ?_, ?_⟩
  · rw [hlow, hrd, h.seq]
    exact seqOk_of_framed _ (framed_expand i)
  · by_cases ha : ∃ a, i = .writeString a
    · obtain ⟨a, rfl⟩ := ha
      rw [(h.string a rfl).2]
      exact Nat.zero_le _
    · rw [(h.noString fun a he => ha ⟨a, he⟩).2]
      exact hidx
  · intro hc
    obtain ⟨a, rfl⟩ := writeString_of_rdCap_mem (h.seq ▸ hc)
    exact ⟨by simp [(h.string a rfl).2], h.op⟩

/-! What the invariant says of the edge of a running operation. -/

theorem mem_leaves {m x : MicroOp} {ms : List MicroOp} (h : x ∈ m.leaves ms) (hx : ∀ c, x ≠ .wait c) : x ∈ ms := by
  cases m with
  | wait c =>
    rw [MicroOp.leaves] at h
    split at h <;> simp_all
  | _ => exact h

/-- Below the cap the next read comes, at the cap it does not. -/
theorem lt_cap_of_rdCap_mem {b : Byte} {idx : Nat} (hidx : idx < Config.hw.stringCap)
    (h : .rdCap ∈ stringRest Config.hw b idx) : b ≠ 0x00#8 ∧ idx + 1 < Config.hw.stringCap := by
  unfold stringRest at h
  split at h
  · simp at h
  · next hb =>
    refine ⟨hb, ?_⟩
    split at h
    · simp [rdCap_not_mem_chr] at h
    · omega

/-- The bounds on `str_idx` after the edge of a running operation. -/
theorem strIdx_microEdge {s : State} {m : MicroOp} {ms : List MicroOp} (hidx : s.strIdx ≤ Config.hw.stringCap)
    (hcap : .rdCap ∈ m :: ms → s.strIdx < Config.hw.stringCap ∧ s.rqOp = 0x6#4) :
    let t := microEdge Config.hw m ms s
    t.strIdx ≤ Config.hw.stringCap ∧ (.rdCap ∈ t.seq → t.strIdx < Config.hw.stringCap ∧ t.rqOp = 0x6#4) := by
  intro t
  by_cases hm : m = .rdCap
  · subst hm
    obtain ⟨hlt, hop⟩ := hcap (by simp)
    constructor
    · simp only [t, microEdge, capture_strIdx]
      split <;> omega
    · intro hc
      obtain ⟨hb, hlt'⟩ := lt_cap_of_rdCap_mem hlt hc
      simp only [t, microEdge, capture_strIdx, capture_rqOp, if_neg hb]
      exact ⟨hlt', hop⟩
  · have hkeep : t.strIdx = s.strIdx ∧ t.rqOp = s.rqOp := by
      cases m <;> simp_all [t, microEdge]
    have hseq : t.seq = m.leaves ms := microEdge_seq _ hm _ _
    rw [hkeep.1, hkeep.2, hseq]
    exact ⟨hidx, fun hc => hcap (List.mem_cons_of_mem _ (mem_leaves hc (by simp)))⟩

/-- Settles O25, by the kind of the edge: a reset leaves the registers of `State.reset`; for a running operation see
`step_busy_seqOk` and `strIdx_microEdge`; an accepting edge starts the list of its request; the others keep the registers. -/
theorem everyEdgeKeepsTheInvariant : Obligations.EveryEdgeKeepsTheInvariant := by
  unfold Obligations.EveryEdgeKeepsTheInvariant
  intro s t hi h
  obtain ⟨hwf, hbusy, hok, hidx, hcap⟩ := id hi
  have hmem : t.mem.wf = true := by
    rw [step_mem h]
    exact wf_agentWrites _ _ hwf
  have hinv : (agentWrites s.edge s).Inv := by
    simp only [State.Inv, agentWrites_busy, agentWrites_seq, agentWrites_eQ, agentWrites_memRdQ, agentWrites_strIdx,
      agentWrites_rqOp]
    exact ⟨wf_agentWrites _ _ hwf, hbusy, hok, hidx, hcap⟩
  obtain ⟨hr, -⟩ | ⟨hr, hb, m, ms, hs, ht⟩ | ⟨-, -, -, -, rfl⟩ | ⟨-, hb, -, i, u, -, hu, rfl⟩ | ⟨-, -, -, rfl⟩ :=
    step_cases h
  · exact inv_of_reset_registers hmem (sameRegisters_reset_of_step hr h)
  · obtain ⟨hok', hbusy'⟩ := step_busy_seqOk hi h hr hb
    refine ⟨hmem, hbusy', hok', ?_⟩
    subst ht
    simpa using strIdx_microEdge (s := agentWrites s.edge s) (by simpa using hidx) (by simpa [hs] using hcap)
  · exact hinv
  · exact (started_of_exec hu).inv hinv (by simpa using hb)
  · exact hinv

/-- Settles O26: a busy block has a micro-op to run, and an idle one accepts, records or waits. -/
theorem noEdgeStopsTheMachine : Obligations.NoEdgeStopsTheMachine := by
  unfold Obligations.NoEdgeStopsTheMachine
  intro s hi
  cases hr : s.edge.rst with
  | true => exact ⟨_, step_of_rst hr⟩
  | false =>
    cases hb : s.busy with
    | true =>
      obtain ⟨-, hbusy, -⟩ := hi
      obtain ⟨m, ms, hs⟩ := List.exists_cons_of_ne_nil (show s.seq ≠ [] by simpa [hb] using hbusy)
      exact ⟨_, step_of_busy hr hb hs⟩
    | false =>
      cases hv : s.edge.reqValid with
      | false => exact ⟨_, step_of_idle hr hb hv⟩
      | true =>
        cases hd : decode s.edge.reqWord with
        | illegal why => exact ⟨_, illegalRequestSetsOnlyItsError s why hr hb hv hd⟩
        | legal i =>
          obtain ⟨u, hstep, -⟩ := step_of_accepts ⟨hr, hb, hv, hd⟩
          exact ⟨_, hstep⟩

/-- Settles O28: only `SETD` and `SETRS` write the bus and RS, and the invariant has E low at both. -/
theorem linesAreStableAroundTheStrobe : Obligations.LinesAreStableAroundTheStrobe := by
  unfold Obligations.LinesAreStableAroundTheStrobe
  intro s t hi h hr he
  cases hb : s.busy with
  | false =>
    obtain ⟨hd, hrs, -⟩ := registers_of_lcdSide (step_idle_lcdSide h hr hb)
    exact ⟨hd, hrs⟩
  | true =>
    obtain ⟨m, ms, hs, rfl⟩ := step_busy_microEdge h hr hb
    obtain ⟨hd, hrs, he', -⟩ := registers_of_lcdSide (runningEdge_lcdSide m ms s)
    rw [hd, hrs]
    rw [he'] at he
    have hok := hi.seqOk_cons hs
    cases m with
    | setD n => simp [MicroOp.moveLcd, (seqOk_setD hok).1] at he
    | setRs b => simp [MicroOp.moveLcd, (seqOk_setRs hok).1] at he
    | _ => exact ⟨rfl, rfl⟩

/-- Without a reset, E changes only at an edge of `EHI` or `ELO`. -/
theorem step_eQ_ne {s t : State} (h : step s = .next t) (hr : s.edge.rst = false) (he : t.eQ ≠ s.eQ) :
    s.busy = true ∧ ∃ ms, (s.seq = .eHi :: ms ∨ s.seq = .eLo :: ms) ∧ t.seq = ms ∧ t.busy = !ms.isEmpty := by
  cases hb : s.busy with
  | false => exact absurd (congrArg LcdSide.e (step_idle_lcdSide h hr hb)) he
  | true =>
    obtain ⟨m, ms, hs, rfl⟩ := step_busy_microEdge h hr hb
    have he' : _ = (m.moveLcd s.cycle s.lcdSide).e := congrArg LcdSide.e (runningEdge_lcdSide m ms s)
    cases m with
    | eHi => exact ⟨rfl, ms, .inl hs, by simp [microEdge], by simp [microEdge, hb]⟩
    | eLo => exact ⟨rfl, ms, .inr hs, by simp [microEdge], by simp [microEdge, hb]⟩
    | _ => exact absurd he' he

/-- Settles O29: E rises at `EHI`, with the strobe's wait and `ELO` behind it. -/
theorem enableIsHighForTheStrobeWidth : Obligations.EnableIsHighForTheStrobeWidth := by
  unfold Obligations.EnableIsHighForTheStrobeWidth
  intro s t hi h hlow hhigh hnr
  have hr : s.edge.rst = false := by
    by_contra hr
    obtain ⟨-, -, -, -, he, -⟩ := sameRegisters_reset_of_step (by simpa using hr) h
    simp [he, State.reset] at hhigh
  obtain ⟨hb, ms, hs | hs, hseq, hbusy⟩ := step_eQ_ne h hr (by simp [hlow, hhigh])
  · obtain ⟨-, -, ms', rfl, -⟩ := seqOk_eHi (hi.seqOk_cons hs)
    have hS : 1 ≤ Config.hw.strobeCycles := by
      rw [hw_strobeCycles]
      exact hw_clkPerUs_pos
    have hstrobe := fun k hk => reaches_wait hbusy hseq (k := k) hk hS (hnr.mono (by omega))
    refine ⟨fun k hk => ?_, ?_⟩
    · obtain ⟨u, hreach, -, -, hlcd⟩ := hstrobe k hk
      obtain ⟨-, -, he, -⟩ := registers_of_lcdSide hlcd
      exact ⟨u, hreach.runs, he.trans hhigh⟩
    · obtain ⟨u, hreach, hsequ, hbusyu, -⟩ := hstrobe _ le_rfl
      rw [if_neg (lt_irrefl _)] at hsequ
      obtain ⟨v, hreach', -, -, hlcd⟩ := hreach.succ hnr (by rw [hbusyu, hsequ]; rfl) hsequ (by simp) (by simp)
      obtain ⟨-, -, he, -⟩ := registers_of_lcdSide hlcd
      exact ⟨v, hreach'.runs, he⟩
  · simp [(seqOk_eLo (hi.seqOk_cons hs)).1] at hlow

/-! After E has fallen (R106 (3)): at least how many edges E stays low, from the head of the list. -/

/-- A lower bound on the edges before `EHI` can run, from a list the invariant admits with E low. -/
def lowEdges : List MicroOp → Nat
  | [] => 3
  | .setRs _ :: _ => 1
  | .eHi :: _ => 0
  | _ => 2

theorem two_le_lowEdges_of_framed {p : Params} {ms : List MicroOp} (h : framed p ms = true) : 2 ≤ lowEdges ms := by
  unfold lowEdges
  split <;> simp_all [framed]

theorem lowEdges_le (ms : List MicroOp) : lowEdges ms ≤ 3 := by
  unfold lowEdges
  split <;> omega

/-- The edge of a running operation with E low keeps E low until the bound is used up, and uses up one edge of it. -/
theorem lowEdges_microEdge {s : State} {m : MicroOp} {ms : List MicroOp}
    (hok : seqOk Config.hw s.eQ s.memRdQ (m :: ms) = true) (he : s.eQ = false) (hn : 1 ≤ lowEdges (m :: ms)) :
    let t := microEdge Config.hw m ms s
    t.eQ = false ∧ lowEdges (m :: ms) ≤ lowEdges t.seq + 1 := by
  intro t
  cases m with
  | pins => exact ⟨he, Nat.le_succ_of_le (two_le_lowEdges_of_framed (seqOk_pins hok).2.2)⟩
  | setD n =>
    obtain ⟨-, -, b, ms', rfl, -⟩ := seqOk_setD hok
    exact ⟨he, le_rfl⟩
  | setRs b => exact ⟨he, Nat.le_add_left 1 _⟩
  | eHi => simp [lowEdges] at hn
  | eLo => simp [(seqOk_eLo hok).1] at he
  | wait c =>
    obtain ⟨-, -, ⟨hhigh, -⟩ | ⟨-, hframed⟩⟩ := seqOk_wait hok
    · simp [he] at hhigh
    · have h2 := two_le_lowEdges_of_framed hframed
      refine ⟨he, ?_⟩
      simp only [t, microEdge]
      split
      · exact Nat.le_succ 2
      · exact Nat.le_succ_of_le h2
  | rdIssue =>
    obtain ⟨-, -, rfl⟩ := seqOk_rdIssue hok
    exact ⟨he, Nat.le_succ 2⟩
  | rdCap => exact ⟨he, Nat.le_succ_of_le (two_le_lowEdges_of_framed (framed_stringRest _ _))⟩

/-- The same for every edge. -/
theorem step_lowEdges {s t : State} (hi : s.Inv) (h : step s = .next t) (he : s.eQ = false) (hn : 1 ≤ lowEdges s.seq) :
    t.eQ = false ∧ lowEdges s.seq ≤ lowEdges t.seq + 1 := by
  obtain ⟨-, rfl⟩ | ⟨-, -, m, ms, hs, rfl⟩ | ⟨-, -, -, -, rfl⟩ | ⟨-, -, -, i, u, -, hu, rfl⟩ | ⟨-, -, -, rfl⟩ :=
    step_cases h
  · exact ⟨rfl, Nat.le_succ_of_le (lowEdges_le _)⟩
  · have hok := hi.seqOk_cons hs
    rw [hs] at hn ⊢
    simpa using lowEdges_microEdge (s := agentWrites s.edge s) (by simpa using hok) (by simpa using he) hn
  · simp [he]
  · have hstart := started_of_exec hu
    obtain ⟨-, -, he', -⟩ := registers_of_lcdSide hstart.lcd
    refine ⟨he'.trans (by simpa using he), ?_⟩
    have h2 := two_le_lowEdges_of_framed (framed_expand i)
    have h3 := lowEdges_le s.seq
    rw [passEdge_seq, hstart.seq]
    omega
  · simp [he]

theorem run_lowEdges {k : Nat} {s u : State} (hi : s.Inv) (he : s.eQ = false) (hk : k ≤ lowEdges s.seq)
    (h : run k s = .next u) : u.eQ = false := by
  induction k generalizing s with
  | zero =>
    cases h
    exact he
  | succ k ih =>
    obtain ⟨t, hstep, hrun⟩ := andThen_eq_next h
    obtain ⟨he', hlow⟩ := step_lowEdges hi hstep he (by omega)
    exact ih (everyEdgeKeepsTheInvariant s t hi hstep) he' (by omega) hrun

/-- Settles O30: E falls at a reset, which leaves nothing to run, or at `ELO`, with whole transfers behind it. -/
theorem enableStaysLowBetweenStrobes : Obligations.EnableStaysLowBetweenStrobes := by
  unfold Obligations.EnableStaysLowBetweenStrobes
  intro s t hi h hhigh hlow
  have hi' := everyEdgeKeepsTheInvariant s t hi h
  have hidle : t.seq = [] → 3 ≤ lowEdges t.seq := fun hs => by rw [hs]; exact le_rfl
  have h2 : 2 ≤ lowEdges t.seq := by
    cases hr : s.edge.rst with
    | true =>
      obtain ⟨-, -, -, -, -, -, -, -, -, hs, -⟩ := sameRegisters_reset_of_step hr h
      exact le_trans (by omega) (hidle hs)
    | false =>
      obtain ⟨-, ms, hs | hs, hseq, -⟩ := step_eQ_ne h hr (by simp [hlow, hhigh])
      · simp [(seqOk_eHi (hi.seqOk_cons hs)).1] at hhigh
      · rw [hseq]
        exact two_le_lowEdges_of_framed (seqOk_eLo (hi.seqOk_cons hs)).2.2
  exact ⟨fun k hk u => run_lowEdges hi' hlow (hk.trans h2),
    fun hb u => run_lowEdges hi' hlow (hidle (hi'.seq_of_idle hb))⟩

/-! The string read under the invariant. -/

/-- The `RDCAP` edge, at which nothing stands behind the read. -/
theorem step_rdCap {s : State} (hr : s.edge.rst = false) (hb : s.busy = true) (hs : s.seq = [.rdCap]) :
    step s = .next (passEdge (settle (capture Config.hw (agentWrites s.edge s).memRdata (agentWrites s.edge s)))) :=
  step_of_busy hr hb hs

/-- Settles O31: while the read strobe is high the list is the one `RDCAP`. -/
theorem readStrobeLastsOneCycle : Obligations.ReadStrobeLastsOneCycle := by
  unfold Obligations.ReadStrobeLastsOneCycle
  intro s t hi h hrd
  obtain ⟨-, hbusy, hok, -⟩ := hi
  have hs : s.seq = [.rdCap] := seqOk_of_memRdQ (hrd ▸ hok)
  have hb : s.busy = true := by rw [hbusy, hs]; rfl
  cases hr : s.edge.rst with
  | true =>
    obtain ⟨-, -, -, -, -, -, -, -, -, -, -, -, -, -, hrd'⟩ := sameRegisters_reset_of_step hr h
    exact ⟨hrd', by simp⟩
  | false =>
    cases (step_rdCap hr hb hs).symm.trans h
    simp [hrd]

theorem stringRest_of_ne {b : Byte} (hb : b ≠ 0x00#8) (idx : Nat) : stringRest Config.hw b idx =
    nib Config.hw (hi b) true ++ nib Config.hw (lo b) true ++ dly Config.hw 50 ++
      (if idx + 1 = 100 then [] else [.rdIssue, .rdCap]) := by
  rw [stringRest, if_neg hb]
  rfl

/-- Settles O49: the capturing edge with `stringRest` of the byte read. -/
theorem stringContinuation : Obligations.StringContinuation := by
  unfold Obligations.StringContinuation
  intro s hi hr hb hs
  obtain ⟨-, -, -, -, hcap⟩ := hi
  have hlt : s.strIdx < 100 := (hcap (by simp [hs])).1
  refine ⟨_, step_rdCap hr hb hs, by simp, by simp, fun h0 => ?_, fun hne => ?_⟩
  · have h0' : (agentWrites s.edge s).memRdata = 0x00#8 := by simpa using h0
    simp [h0', stringRest]
  · have hne' : (agentWrites s.edge s).memRdata ≠ 0x00#8 := by simpa using hne
    have hrest := stringRest_of_ne hne' s.strIdx
    refine ⟨?_, ?_, ?_, ?_⟩
    · simp [hb, hrest, nib_hw]
    · simp [hne']
    · simpa [hne'] using hlt
    · simpa [hne'] using hrest

end Sys2Proof.Machine
end

section
/-!
Runs of a list without string reads (40_pins_and_nibble.md R100, R101, R103): its edges in turn, the walk of the list that
gives the lines and the latch events, and two runs of one list side by side.
-/

namespace Sys2Proof.Machine

/-- The LCD side after the whole list `ms`, whose first micro-op runs at edge `k`. -/
def walkLcd (k : Nat) (v : LcdSide) : List MicroOp → LcdSide
  | [] => v
  | m :: ms => walkLcd (k + m.edges) (m.moveLcd k v) ms

@[simp] theorem walkLcd_nil (k : Nat) (v : LcdSide) : walkLcd k v [] = v := rfl

@[simp] theorem walkLcd_cons (k : Nat) (v : LcdSide) (m : MicroOp) (ms : List MicroOp) :
    walkLcd k v (m :: ms) = walkLcd (k + m.edges) (m.moveLcd k v) ms := rfl

/-- The latch events of the walk are those of the model's own. -/
theorem walkLcd_latches (k : Nat) (v : LcdSide) (ms : List MicroOp) :
    (walkLcd k v ms).latches = v.latches ++ walkLatches v.pins v.d v.rs k ms := by
  induction ms generalizing k v with
  | nil => simp [walkLatches]
  | cons m ms ih => cases m <;> simp [ih, MicroOp.moveLcd, MicroOp.edges, walkLatches]

/-! One edge of such a list. -/

section
variable {m : MicroOp} {ms : List MicroOp} (h : fixedList (m :: ms) = true)
include h

theorem ne_read_of_fixedList : m ≠ .rdIssue ∧ m ≠ .rdCap := by
  cases m <;> simp_all [fixedList]

theorem fixedList_leaves : fixedList (m.leaves ms) = true := by
  cases m with
  | wait c =>
    simp only [fixedList, Bool.and_eq_true, decide_eq_true_eq] at h
    rw [MicroOp.leaves]
    split
    · simp only [fixedList, Bool.and_eq_true, decide_eq_true_eq]
      exact ⟨by omega, h.2⟩
    · exact h.2
  | rdIssue => simp [fixedList] at h
  | rdCap => simp [fixedList] at h
  | _ => simpa [MicroOp.leaves, fixedList] using h

theorem totalEdges_leaves : totalEdges (m.leaves ms) + 1 = totalEdges (m :: ms) := by
  cases m with
  | wait c =>
    simp only [fixedList, Bool.and_eq_true, decide_eq_true_eq] at h
    rw [MicroOp.leaves]
    split <;> simp [MicroOp.edges] <;> omega
  | _ => simp [MicroOp.leaves, MicroOp.edges, Nat.add_comm]

theorem walkLcd_leaves (k : Nat) (v : LcdSide) :
    walkLcd (k + 1) (m.moveLcd k v) (m.leaves ms) = walkLcd k v (m :: ms) := by
  cases m with
  | wait c =>
    simp only [fixedList, Bool.and_eq_true, decide_eq_true_eq] at h
    rw [MicroOp.leaves]
    split
    · simp only [walkLcd_cons, MicroOp.moveLcd, MicroOp.edges]
      rw [show k + 1 + (c - 1) = k + c by omega]
    · simp only [walkLcd_cons, MicroOp.moveLcd, MicroOp.edges]
      rw [show c = 1 by omega]
  | _ => rfl

end

theorem leaves_append (m : MicroOp) (ms rest : List MicroOp) : m.leaves (ms ++ rest) = m.leaves ms ++ rest := by
  cases m with
  | wait c =>
    rw [MicroOp.leaves, MicroOp.leaves]
    split <;> rfl
  | _ => rfl

theorem eq_nil_of_totalEdges {ms : List MicroOp} (h : fixedList ms = true) (h0 : totalEdges ms = 0) : ms = [] := by
  cases ms with
  | nil => rfl
  | cons m ms =>
    have := totalEdges_leaves h
    omega

/-- `k` edges of the list `ms`, with `rest` behind it: some list is left, whose walk ends as that of `ms` does. -/
theorem reaches_list {k : Nat} {s : State} {ms rest : List MicroOp} (hb : s.busy = !s.seq.isEmpty) (hs : s.seq = ms ++ rest)
    (hf : fixedList ms = true) (hk : k ≤ totalEdges ms) (hr : NoReset k s) :
    ∃ u ms', Reaches k s u ∧ u.busy = !u.seq.isEmpty ∧ u.seq = ms' ++ rest ∧ fixedList ms' = true ∧
      totalEdges ms' + k = totalEdges ms ∧ walkLcd u.cycle u.lcdSide ms' = walkLcd s.cycle s.lcdSide ms := by
  induction k with
  | zero => exact ⟨s, ms, .refl s, hb, hs, hf, rfl, rfl⟩
  | succ k ih =>
    obtain ⟨u, ms', hreach, hbusy, hseq, hfixed, htotal, hwalk⟩ := ih (by omega) (hr.mono (by omega))
    cases ms' with
    | nil =>
      rw [totalEdges_nil] at htotal
      omega
    | cons m ms' =>
      obtain ⟨hm, hc⟩ := ne_read_of_fixedList hfixed
      obtain ⟨t, hreach', hseq', hbusy', hlcd⟩ :=
        hreach.succ hr (by rw [hbusy, hseq]; rfl) (ms := ms' ++ rest) hseq hm hc
      have hcycle : t.cycle = u.cycle + 1 := by rw [hreach'.moved.cycle, hreach.moved.cycle, Nat.add_assoc]
      refine ⟨t, m.leaves ms', hreach', hbusy', hseq'.trans (leaves_append m ms' rest), fixedList_leaves hfixed, ?_, ?_⟩
      · have := totalEdges_leaves hfixed
        omega
      · rw [hcycle, hlcd, walkLcd_leaves hfixed, hwalk]

/-- The whole list. -/
theorem reaches_list_end {s : State} {ms rest : List MicroOp} (hb : s.busy = !s.seq.isEmpty) (hs : s.seq = ms ++ rest)
    (hf : fixedList ms = true) (hr : NoReset (totalEdges ms) s) :
    ∃ u, Reaches (totalEdges ms) s u ∧ u.busy = !u.seq.isEmpty ∧ u.seq = rest ∧
      u.lcdSide = walkLcd s.cycle s.lcdSide ms := by
  obtain ⟨u, ms', hreach, hbusy, hseq, hfixed, htotal, hwalk⟩ := reaches_list hb hs hf le_rfl hr
  obtain rfl : ms' = [] := eq_nil_of_totalEdges hfixed (by omega)
  exact ⟨u, hreach, hbusy, hseq, hwalk⟩

theorem busy_eq_of_ne_nil {s : State} (hb : s.busy = true) (hne : s.seq ≠ []) : s.busy = !s.seq.isEmpty := by
  simp [hb, hne]

/-- Settles O32, by `reaches_list` with nothing behind the list. -/
theorem listCompletesInItsTotalEdges : Obligations.ListCompletesInItsTotalEdges := by
  unfold Obligations.ListCompletesInItsTotalEdges
  intro s hb hne hf hr
  have hbusy := busy_eq_of_ne_nil hb hne
  constructor
  · intro k hk
    obtain ⟨u, ms', hreach, hbusyu, hseq, -, htotal, -⟩ :=
      reaches_list (rest := []) hbusy (by simp) hf hk.le (hr.mono hk.le)
    have hne' : u.seq ≠ [] := by
      rintro h0
      obtain rfl : ms' = [] := by simpa [h0] using hseq.symm
      simp at htotal
      omega
    exact ⟨u, hreach.runs, by simp [hbusyu, hne'], hne'⟩
  · obtain ⟨u, hreach, hbusyu, hseq, hlcd⟩ := reaches_list_end (rest := []) hbusy (by simp) hf hr
    have hm := hreach.moved
    have hlatches : u.latches = s.latches ++ walkLatches s.pinsCfg s.dQ s.rsQ s.cycle s.seq :=
      (congrArg LcdSide.latches hlcd).trans (walkLcd_latches _ _ _)
    exact ⟨u, hreach.runs, by simp [hbusyu, hseq], hseq, hm.cycle, hlatches, hm.str, hm.errI, hm.errN, hm.op, hm.arg⟩

/-! Two runs. -/

theorem lcdSide_of_sameRegisters {s t : State} (h : SameRegisters s t) (hl : s.latches = t.latches) :
    s.lcdSide = t.lcdSide := by
  obtain ⟨-, hpins, hd, hrs, he, -⟩ := h
  simp [State.lcdSide, hpins, hd, hrs, he, hl]

/-- What a run without string reads does to the registers is determined by its list and its LCD side. -/
theorem sameRegisters_of_moved {k : Nat} {s₁ s₂ u₁ u₂ : State} (hs : SameRegisters s₁ s₂) (h₁ : Moved k s₁ u₁)
    (h₂ : Moved k s₂ u₂) (hb : u₁.busy = u₂.busy) (hseq : u₁.seq = u₂.seq) (hlcd : u₁.lcdSide = u₂.lcdSide) :
    SameRegisters u₁ u₂ := by
  obtain ⟨-, -, -, -, -, hillegal, hnopins, hop, harg, -, hbase, hidx, hbyte, haddr, hrd⟩ := hs
  obtain ⟨hbase₁, hidx₁, hbyte₁, haddr₁, hrd₁, -⟩ := h₁.str
  obtain ⟨hbase₂, hidx₂, hbyte₂, haddr₂, hrd₂, -⟩ := h₂.str
  simp only [State.lcdSide, LcdSide.mk.injEq] at hlcd
  obtain ⟨hpins, hd, hrs, he, -⟩ := hlcd
  simp [SameRegisters, h₁.errI, h₂.errI, h₁.errN, h₂.errN, h₁.op, h₂.op, h₁.arg, h₂.arg, *]

/-- Two runs of one list, edge by edge. -/
theorem reaches_both {k : Nat} {s₁ s₂ : State} (hseq : s₁.seq = s₂.seq) (hlcd : s₁.lcdSide = s₂.lcdSide)
    (hcycle : s₁.cycle = s₂.cycle) (hb₁ : s₁.busy = !s₁.seq.isEmpty) (hb₂ : s₂.busy = !s₂.seq.isEmpty)
    (hf : fixedList s₁.seq = true) (hk : k ≤ totalEdges s₁.seq) (hr₁ : NoReset k s₁) (hr₂ : NoReset k s₂) :
    ∃ u₁ u₂, Reaches k s₁ u₁ ∧ Reaches k s₂ u₂ ∧ u₁.seq = u₂.seq ∧ u₁.lcdSide = u₂.lcdSide ∧
      u₁.busy = !u₁.seq.isEmpty ∧ u₂.busy = !u₂.seq.isEmpty ∧ fixedList u₁.seq = true ∧
      totalEdges u₁.seq + k = totalEdges s₁.seq := by
  induction k with
  | zero => exact ⟨s₁, s₂, .refl s₁, .refl s₂, hseq, hlcd, hb₁, hb₂, hf, rfl⟩
  | succ k ih =>
    obtain ⟨u₁, u₂, hreach₁, hreach₂, hsequ, hlcdu, hbusy₁, hbusy₂, hfixed, htotal⟩ :=
      ih (by omega) (hr₁.mono (by omega)) (hr₂.mono (by omega))
    cases hsu : u₁.seq with
    | nil =>
      rw [hsu, totalEdges_nil] at htotal
      omega
    | cons m ms =>
      rw [hsu] at hfixed htotal hbusy₁ hsequ
      obtain ⟨hm, hc⟩ := ne_read_of_fixedList hfixed
      obtain ⟨t₁, hreach₁', hseq₁, hbusy₁', hlcd₁⟩ := hreach₁.succ hr₁ hbusy₁ hsu hm hc
      obtain ⟨t₂, hreach₂', hseq₂, hbusy₂', hlcd₂⟩ :=
        hreach₂.succ hr₂ (by rw [hbusy₂, ← hsequ]; rfl) hsequ.symm hm hc
      have hcycleu : u₁.cycle = u₂.cycle := by rw [hreach₁.moved.cycle, hreach₂.moved.cycle, hcycle]
      refine ⟨t₁, t₂, hreach₁', hreach₂', hseq₁.trans hseq₂.symm, by rw [hlcd₁, hlcd₂, hcycleu, hlcdu], hbusy₁',
        hbusy₂', hseq₁ ▸ fixedList_leaves hfixed, ?_⟩
      have := totalEdges_leaves hfixed
      rw [hseq₁]
      omega

/-- Settles O33, by `reaches_both`. -/
theorem fixedListIgnoresEveryInputButReset : Obligations.FixedListIgnoresEveryInputButReset := by
  unfold Obligations.FixedListIgnoresEveryInputButReset
  intro s₁ s₂ hs hl hcycle hb hf k hk hr₁ hr₂ t₁ hrun
  obtain ⟨hb', -, -, -, -, -, -, -, -, hseq, -⟩ := id hs
  by_cases hne : s₁.seq = []
  · obtain rfl : k = 0 := by simpa [hne] using hk
    cases hrun
    exact ⟨s₂, rfl, hs, hl, rfl, rfl⟩
  · obtain ⟨u₁, u₂, hreach₁, hreach₂, hsequ, hlcdu, hbusy₁, hbusy₂, -, -⟩ :=
      reaches_both hseq.symm (lcdSide_of_sameRegisters hs hl) hcycle (busy_eq_of_ne_nil hb hne)
        (busy_eq_of_ne_nil (hb'.trans hb) (hseq ▸ hne)) hf hk hr₁ hr₂
    cases hreach₁.runs.symm.trans hrun
    obtain ⟨-, -, -, -, -, hreads₁⟩ := hreach₁.moved.str
    obtain ⟨-, -, -, -, -, hreads₂⟩ := hreach₂.moved.str
    exact ⟨u₂, hreach₂.runs,
      sameRegisters_of_moved hs hreach₁.moved hreach₂.moved (by rw [hbusy₁, hbusy₂, hsequ]) hsequ hlcdu,
      congrArg LcdSide.latches hlcdu, hreads₁, hreads₂⟩

end Sys2Proof.Machine
end

section
/-!
The operations without string reads from the accepting edge to completion (40_pins_and_nibble.md R109, R110; 41_command_send.md
R131, R133; 42_text_output.md R151, R156; 43_initialization.md R181, R182): the walks and lengths of their lists, and one run lemma.
-/

namespace Sys2Proof.Machine

/-! Lengths (R103). -/

theorem totalEdges_cmd4 (p : Params) (v : Byte) (t : Nat) : totalEdges (cmd4 p v t) = p.nibbleCycles + p.cyc t := by
  simp [cmd4]

theorem totalEdges_cmd8 (p : Params) (c : Byte) (t : Nat) : totalEdges (cmd8 p c t) = 2 * p.nibbleCycles + p.cyc t := by
  simp [cmd8, Nat.two_mul, Nat.add_assoc]

theorem totalEdges_chr (p : Params) (h : Byte) : totalEdges (chr p h) = 2 * p.nibbleCycles + p.cyc p.charSettleUs := by
  simp [chr, Nat.two_mul, Nat.add_assoc]

theorem totalEdges_initSeq : totalEdges (initSeq Config.hw) = 14 * Config.hw.nibbleCycles + Config.hw.cyc 21125 := by
  simp only [initSeq, totalEdges_append, totalEdges_dly, totalEdges_cmd4, totalEdges_cmd8, Params.cyc, hw_tPowerUs,
    hw_tInit1Us, hw_tInit2Us, hw_tCmdUs, hw_tClearUs]
  omega

/-! No request but the string write reads the string memory. -/

theorem fixedList_append {xs ys : List MicroOp} (hx : fixedList xs = true) (hy : fixedList ys = true) :
    fixedList (xs ++ ys) = true := by
  induction xs with
  | nil => exact hy
  | cons m xs ih => cases m <;> simp_all [fixedList]

theorem fixedList_dly (t : Nat) : fixedList (dly Config.hw t) = true := by
  unfold dly
  split
  · rfl
  · next h =>
    simp only [fixedList, Bool.and_true, decide_eq_true_eq]
    exact Nat.pos_of_ne_zero h

theorem fixedList_nib (n : Nibble) (r : Bool) : fixedList (nib Config.hw n r) = true := by
  have := hw_clkPerUs_pos
  simp [nib_hw, fixedList]
  omega

theorem fixedList_cmd4 (v : Byte) (t : Nat) : fixedList (cmd4 Config.hw v t) = true :=
  fixedList_append (fixedList_nib _ _) (fixedList_dly t)

theorem fixedList_cmd8 (c : Byte) (t : Nat) : fixedList (cmd8 Config.hw c t) = true :=
  fixedList_append (fixedList_append (fixedList_nib _ _) (fixedList_nib _ _)) (fixedList_dly t)

theorem fixedList_chr (h : Byte) : fixedList (chr Config.hw h) = true :=
  fixedList_append (fixedList_append (fixedList_nib _ _) (fixedList_nib _ _)) (fixedList_dly _)

theorem fixedList_initSeq : fixedList (initSeq Config.hw) = true := by
  refine fixedList_append (fixedList_append (fixedList_append (fixedList_append (fixedList_append (fixedList_append
    (fixedList_append (fixedList_append ?_ ?_) ?_) ?_) ?_) ?_) ?_) ?_) ?_
  exacts [fixedList_dly _, fixedList_cmd4 _ _, fixedList_cmd4 _ _, fixedList_cmd8 _ _, fixedList_cmd8 _ _, fixedList_cmd8 _ _,
    fixedList_cmd8 _ _, fixedList_cmd8 _ _, fixedList_cmd8 _ _]

theorem fixedList_expand {i : Instr} (h : ∀ a, i ≠ .writeString a) : fixedList (expand Config.hw i) = true := by
  cases i with
  | initPins => rfl
  | sendNibble v r => exact fixedList_nib _ _
  | sendCmd4 v t => exact fixedList_cmd4 _ _
  | sendCmd8 c t => exact fixedList_cmd8 _ _
  | writeChar h => exact fixedList_chr _
  | writeString a => exact absurd rfl (h a)
  | moveCursor x y => exact fixedList_cmd8 _ _
  | initProcedure => exact fixedList_initSeq
  | init => exact fixedList_append (xs := [.pins]) rfl fixedList_initSeq

/-! Walks. -/

theorem walkLcd_append (k : Nat) (v : LcdSide) (xs ys : List MicroOp) :
    walkLcd k v (xs ++ ys) = walkLcd (k + totalEdges xs) (walkLcd k v xs) ys := by
  induction xs generalizing k v with
  | nil => rfl
  | cons m xs ih => simp [ih, Nat.add_assoc]

theorem walkLcd_dly (k : Nat) (v : LcdSide) (p : Params) (t : Nat) : walkLcd k v (dly p t) = v := by
  unfold dly
  split <;> rfl

/-- The LCD side after a transfer of the nibble `n` with RS level `r`, whose `ELO` runs at edge `k`. -/
def LcdSide.latch (r : Bool) (n : Nibble) (k : Nat) (v : LcdSide) : LcdSide :=
  { v with d := n, rs := r, e := false, latches := v.latches ++ if v.pins then [⟨r, n, k⟩] else [] }

/-- The LCD side after the two transfers of the byte `b` with RS level `r`, which begin at edge `k`. -/
def LcdSide.latchByte (r : Bool) (b : Byte) (k : Nat) (v : LcdSide) : LcdSide :=
  (v.latch r (hi b) (k + 3 + Config.hw.strobeCycles)).latch r (lo b)
    (k + Config.hw.nibbleCycles + 3 + Config.hw.strobeCycles)

theorem walkLcd_nib (k : Nat) (v : LcdSide) (n : Nibble) (r : Bool) :
    walkLcd k v (nib Config.hw n r) = v.latch r n (k + 3 + Config.hw.strobeCycles) := by
  simp [nib_hw, MicroOp.moveLcd, MicroOp.edges, LcdSide.latch]

theorem walkLcd_cmd4 (k : Nat) (v : LcdSide) (b : Byte) (t : Nat) :
    walkLcd k v (cmd4 Config.hw b t) = v.latch false (lo b) (k + 3 + Config.hw.strobeCycles) := by
  simp only [cmd4, walkLcd_append, walkLcd_dly, walkLcd_nib]

theorem walkLcd_cmd8 (k : Nat) (v : LcdSide) (c : Byte) (t : Nat) :
    walkLcd k v (cmd8 Config.hw c t) = v.latchByte false c k := by
  simp only [cmd8, walkLcd_append, walkLcd_dly, walkLcd_nib, totalEdges_nib, LcdSide.latchByte]

theorem walkLcd_chr (k : Nat) (v : LcdSide) (h : Byte) : walkLcd k v (chr Config.hw h) = v.latchByte true h k := by
  simp only [chr, walkLcd_append, walkLcd_dly, walkLcd_nib, totalEdges_nib, LcdSide.latchByte]

/-- The byte's latch events as the statements count them, from the edge before the transfers begin. -/
theorem latchByte_succ (r : Bool) (b : Byte) (k : Nat) (v : LcdSide) : v.latchByte r b (k + 1) =
    { v with d := lo b, rs := r, e := false, latches := v.latches ++ byteLatches Config.hw v.pins r k b } := by
  have h₁ : k + 1 + 3 + Config.hw.strobeCycles = k + Config.hw.nibbleCycles := by
    rw [Params.nibbleCycles]
    omega
  have h₂ : k + 1 + Config.hw.nibbleCycles + 3 + Config.hw.strobeCycles = k + 2 * Config.hw.nibbleCycles := by
    rw [Params.nibbleCycles]
    omega
  rw [LcdSide.latchByte, h₁, h₂]
  cases hp : v.pins <;> simp [LcdSide.latch, byteLatches, hp]

/-! The initialization sequence on the timeline of R184. -/

/-- The edge after `j` transfers and `us` microseconds of waits, of a list whose first edge is `k + 1`. -/
def timeline (k j us : Nat) : Nat := k + 1 + j * Config.hw.nibbleCycles + Config.hw.cyc us

theorem cyc_add (t u : Nat) : Config.hw.cyc (t + u) = Config.hw.cyc t + Config.hw.cyc u := Nat.add_mul _ _ _

theorem timeline_latch (k j us : Nat) : timeline k j us + 3 + Config.hw.strobeCycles =
    k + (j + 1) * Config.hw.nibbleCycles + Config.hw.cyc us := by
  have hN : (j + 1) * Config.hw.nibbleCycles = j * Config.hw.nibbleCycles + (4 + Config.hw.strobeCycles) := Nat.succ_mul _ _
  rw [timeline, hN]
  omega

theorem timeline_succ (k j us : Nat) : timeline k j us + Config.hw.nibbleCycles = timeline k (j + 1) us := by
  rw [timeline, timeline, Nat.succ_mul]
  omega

theorem timeline_wait (k j us t : Nat) : timeline k j us + Config.hw.cyc t = timeline k j (us + t) := by
  rw [timeline, timeline, cyc_add, Nat.add_assoc]

section
variable (k j us t : Nat) (v : LcdSide) (b : Byte) (rest : List MicroOp)

theorem walkLcd_dly_append (p : Params) : walkLcd k v (dly p t ++ rest) = walkLcd (k + p.cyc t) v rest := by
  rw [walkLcd_append, walkLcd_dly, totalEdges_dly]

theorem walkLcd_cmd4_append : walkLcd (timeline k j us) v (cmd4 Config.hw b t ++ rest) =
    walkLcd (timeline k (j + 1) (us + t)) (v.latch false (lo b) (k + (j + 1) * Config.hw.nibbleCycles + Config.hw.cyc us))
      rest := by
  rw [walkLcd_append, walkLcd_cmd4, totalEdges_cmd4, timeline_latch, ← Nat.add_assoc, timeline_succ, timeline_wait]

theorem walkLcd_cmd8_append : walkLcd (timeline k j us) v (cmd8 Config.hw b t ++ rest) =
    walkLcd (timeline k (j + 2) (us + t))
      ((v.latch false (hi b) (k + (j + 1) * Config.hw.nibbleCycles + Config.hw.cyc us)).latch false (lo b)
        (k + (j + 2) * Config.hw.nibbleCycles + Config.hw.cyc us)) rest := by
  rw [walkLcd_append, walkLcd_cmd8, LcdSide.latchByte, totalEdges_cmd8, timeline_succ, timeline_latch, timeline_latch,
    ← timeline_wait, ← timeline_succ, ← timeline_succ]
  congr 1
  omega

end

theorem initSeq_hw : initSeq Config.hw =
    dly Config.hw 15000 ++ (cmd4 Config.hw 0x03#8 4100 ++ (cmd4 Config.hw 0x03#8 100 ++ (cmd8 Config.hw 0x32#8 45 ++
      (cmd8 Config.hw 0x28#8 45 ++ (cmd8 Config.hw 0x08#8 45 ++ (cmd8 Config.hw 0x01#8 1700 ++ (cmd8 Config.hw 0x06#8 45 ++
        (cmd8 Config.hw 0x0F#8 45 ++ [])))))))) := by
  simp [initSeq]

/-- The walk of the initialization sequence, whose first edge is `k + 1`. -/
theorem walkLcd_initSeq (k : Nat) (v : LcdSide) : walkLcd (k + 1) v (initSeq Config.hw) =
    { v with d := 0xF#4, rs := false, e := false, latches := v.latches ++ initLatches Config.hw v.pins k } := by
  have hpower : k + 1 + Config.hw.cyc 15000 = timeline k 0 15000 := by simp [timeline]
  rw [initSeq_hw, walkLcd_dly_append, hpower]
  simp only [walkLcd_cmd4_append, walkLcd_cmd8_append, walkLcd_nil]
  cases hp : v.pins <;> simp [LcdSide.latch, initLatches, hp, hi, lo]

/-! From the accepting edge to completion. -/

/-- What the `n` edges of the request `i`, one that reads no string memory, lead to from the state that accepts it. -/
structure Performed (i : Instr) (n : Nat) (s t : State) : Prop where
  runs : run n s = .next t
  busy : t.busy = false
  seq : t.seq = []
  op : t.rqOp = opcode i
  arg : t.rqArg = operands i
  cycle : t.cycle = s.cycle + n
  inputs : t.inputs = s.inputs.drop n
  lcd : t.lcdSide = walkLcd (s.cycle + 1) s.lcdSide (expand Config.hw i)
  errI : t.errIllegal = s.errIllegal
  errN : t.errNopins = (s.errNopins || (needsPins i && !s.pinsCfg))
  str : KeepsString s t

theorem Performed.completed {i : Instr} {n : Nat} {s t : State} (h : Performed i n s t) (he : t.eQ = false) :
    Completed s t i n :=
  ⟨h.busy, h.seq, he, h.op, h.arg, h.cycle, h.inputs⟩

/-- The accepting edge, and then the list of the request. -/
theorem accepts_performed {s : State} {i : Instr} {D : Nat} (h : Accepts s i) (hi : ∀ a, i ≠ .writeString a)
    (hD : totalEdges (expand Config.hw i) = D) (hr : NoReset (1 + D) s) : ∃ t, Performed i (1 + D) s t := by
  obtain ⟨u, hstep, hstart⟩ := step_of_accepts h
  subst hD
  have hinputs : (passEdge u).inputs = s.inputs.drop 1 := by simp [hstart.inputs]
  have hlcd : (passEdge u).lcdSide = s.lcdSide := by simp [hstart.lcd]
  have hcycle : (passEdge u).cycle = s.cycle + 1 := by simp [hstart.cycle]
  obtain ⟨t, hreach, hbusy, hseq, hwalk⟩ := reaches_list_end (s := passEdge u) (ms := expand Config.hw i) (rest := [])
    (by simp [hstart.busy, hstart.seq, expand_ne_nil]) (by simp [hstart.seq]) (fixedList_expand hi)
    (forall_take_drop hr hinputs)
  have hm := hreach.moved
  obtain ⟨hbase, hidx⟩ := hstart.noString hi
  obtain ⟨hbase', hidx', hbyte', haddr', hrd', hreads'⟩ := hm.str
  refine ⟨t, ?_, by simp [hbusy, hseq], hseq, ?_, ?_, ?_, ?_, ?_, ?_, ?_, ?_⟩
  · rw [run_add, run_succ, hstep]
    exact hreach.runs
  · rw [hm.op, passEdge_rqOp, hstart.op]
  · rw [hm.arg, passEdge_rqArg, hstart.arg]
  · rw [hm.cycle, hcycle, Nat.add_assoc]
  · rw [hm.inputs, hinputs, List.drop_drop]
  · rw [hwalk, hcycle, hlcd]
  · rw [hm.errI, passEdge_errIllegal, hstart.errI, agentWrites_errIllegal]
  · rw [hm.errN, passEdge_errNopins, hstart.errN, agentWrites_errNopins, agentWrites_pinsCfg]
  · simp [KeepsString, hbase', hidx', hbyte', haddr', hrd', hreads', hbase, hidx, hstart.strByte, hstart.memAddrQ,
      hstart.memRdQ, hstart.reads]

/-- The line registers and the latch events after a request. -/
theorem Performed.lines {i : Instr} {n : Nat} {s t : State} (h : Performed i n s t) {v : LcdSide}
    (hv : walkLcd (s.cycle + 1) s.lcdSide (expand Config.hw i) = v) :
    t.pinsCfg = v.pins ∧ t.dQ = v.d ∧ t.rsQ = v.rs ∧ t.eQ = v.e ∧ t.latches = v.latches := by
  have hlcd := h.lcd.trans hv
  exact ⟨congrArg LcdSide.pins hlcd, registers_of_lcdSide hlcd⟩

/-- Settles O36: the list is the one `PINS`. -/
theorem initPinsConfiguresTheLines : Obligations.InitPinsConfiguresTheLines := by
  unfold Obligations.InitPinsConfiguresTheLines
  intro s hi h hr
  obtain ⟨u, hstep, hstart⟩ := step_of_accepts h
  have hpinsu : u.pinsCfg = s.pinsCfg := (congrArg LcdSide.pins hstart.lcd).trans (agentWrites_pinsCfg _ _)
  obtain ⟨t, ht⟩ := accepts_performed h (by simp) (D := 1) rfl hr
  obtain ⟨hpins, hd, hrs, he, hlatches⟩ := ht.lines rfl
  obtain ⟨-, hidle, -, -⟩ := h
  have hlow : t.eQ = false := he.trans (hi.eQ_of_idle hidle)
  exact ⟨passEdge u, t, hstep, hstart.busy, hpinsu, ht.runs, ht.completed hlow, hpins, hpins, hd, hrs, ht.errI,
    by simpa [needsPins] using ht.errN, hlatches, ht.str⟩

/-- Settles O37: the list is one transfer. -/
theorem sendNibbleTransfersTheLowNibble : Obligations.SendNibbleTransfersTheLowNibble := by
  unfold Obligations.SendNibbleTransfersTheLowNibble
  intro s v r h hr
  obtain ⟨t, ht⟩ := accepts_performed h (by simp) (totalEdges_nib _ _ _) hr
  obtain ⟨hpins, hd, hrs, he, hlatches⟩ := ht.lines (walkLcd_nib _ _ _ _)
  have hedge : s.cycle + 1 + 3 + Config.hw.strobeCycles = s.cycle + Config.hw.nibbleCycles := Nat.add_assoc _ 4 _
  rw [hedge] at hlatches
  exact ⟨t, ht.runs, ht.completed he, hd, hrs, hpins, ht.errI, by simpa [needsPins] using ht.errN, ht.str, hlatches⟩

/-- Settles O38: the list is one transfer and a wait. -/
theorem sendCmd4SendsOneNibbleAndWaits : Obligations.SendCmd4SendsOneNibbleAndWaits := by
  unfold Obligations.SendCmd4SendsOneNibbleAndWaits
  intro s v d h hr
  obtain ⟨t, ht⟩ := accepts_performed h (by simp) (totalEdges_cmd4 _ _ _) hr
  obtain ⟨hpins, hd, hrs, he, hlatches⟩ := ht.lines (walkLcd_cmd4 _ _ _ _)
  have hedge : s.cycle + 1 + 3 + Config.hw.strobeCycles = s.cycle + Config.hw.nibbleCycles := Nat.add_assoc _ 4 _
  rw [hedge] at hlatches
  exact ⟨t, ht.runs, ht.completed he, hd, hrs, hpins, ht.errI, by simpa [needsPins] using ht.errN, ht.str, hlatches⟩

/-- Settles O39: the list is the two transfers of the byte and a wait. -/
theorem sendCmd8SendsHighThenLowNibble : Obligations.SendCmd8SendsHighThenLowNibble := by
  unfold Obligations.SendCmd8SendsHighThenLowNibble
  intro s c d h hr
  obtain ⟨t, ht⟩ := accepts_performed h (by simp) (totalEdges_cmd8 _ _ _) hr
  obtain ⟨hpins, hd, hrs, he, hlatches⟩ := ht.lines ((walkLcd_cmd8 _ _ _ _).trans (latchByte_succ _ _ _ _))
  exact ⟨t, ht.runs, ht.completed he, hd, hrs, hpins, ht.errI, by simpa [needsPins] using ht.errN, ht.str, hlatches⟩

/-- Settles O40: the list is the two transfers of the code and the settle delay. -/
theorem writeCharSendsTheCodeInDataMode : Obligations.WriteCharSendsTheCodeInDataMode := by
  unfold Obligations.WriteCharSendsTheCodeInDataMode
  intro s b h hr
  obtain ⟨t, ht⟩ := accepts_performed h (by simp) (totalEdges_chr _ _) hr
  obtain ⟨hpins, hd, hrs, he, hlatches⟩ := ht.lines ((walkLcd_chr _ _ _).trans (latchByte_succ _ _ _ _))
  exact ⟨t, ht.runs, ht.completed he, hd, hrs, hpins, ht.errI, by simpa [needsPins] using ht.errN, ht.str, hlatches⟩

/-! The cursor command (R156). -/

/-- Bit 7 set in a byte. -/
theorem or_128_of_lt {m : Nat} (h : m < 256) : 128 ||| m = 128 + m % 128 := by
  have hlow : 128 + m % 128 = 128 ||| m % 128 := Nat.two_pow_add_eq_or_of_lt (i := 7) (Nat.mod_lt m (by omega)) 1
  obtain hm | hm : m % 128 = m ∨ m = 128 + m % 128 := by omega
  · rw [hlow, hm]
  · rw [hlow] at hm ⊢
    conv_lhs => rw [hm, ← Nat.or_assoc, Nat.or_self]

theorem toNat_cursorCmd (x y : Byte) :
    (cursorCmd Config.hw x y).toNat = 128 + (y.toNat * 16 + x.toNat) % 128 := by
  rw [cursorCmd, cursorAddr, hw_columns, BitVec.toNat_ofNat, Nat.or_mod_two_pow]
  exact (or_128_of_lt (Nat.mod_lt _ (by omega))).trans (by omega)

/-- Settles O46, by `toNat_cursorCmd`; in the source's range the address stays below bit 7. -/
theorem cursorCommandByte : Obligations.CursorCommandByte := by
  unfold Obligations.CursorCommandByte
  refine ⟨toNat_cursorCmd, fun x y hx hy => ?_, by decide, by decide, by decide, by decide, by decide, by decide, by decide,
    by decide⟩
  exact (toNat_cursorCmd x y).trans (or_128_of_lt (by omega)).symm

/-- Settles O41: the list is the eight-bit command send of the cursor command. -/
theorem moveCursorSendsTheAddressCommand : Obligations.MoveCursorSendsTheAddressCommand := by
  unfold Obligations.MoveCursorSendsTheAddressCommand
  intro s x y h hr
  obtain ⟨t, ht⟩ := accepts_performed h (by simp) (totalEdges_cmd8 _ _ _) hr
  obtain ⟨hpins, hd, hrs, he, hlatches⟩ := ht.lines ((walkLcd_cmd8 _ _ _ _).trans (latchByte_succ _ _ _ _))
  exact ⟨t, cursorCmd Config.hw x y, toNat_cursorCmd x y, ht.runs, ht.completed he, hd, hrs, hpins, ht.errI,
    by simpa [needsPins] using ht.errN, ht.str, hlatches⟩

/-- Settles O42: the list is the initialization sequence. -/
theorem initProcedureRunsTheSequence : Obligations.InitProcedureRunsTheSequence := by
  unfold Obligations.InitProcedureRunsTheSequence
  intro s h hr
  obtain ⟨t, ht⟩ := accepts_performed h (by simp) totalEdges_initSeq hr
  obtain ⟨hpins, hd, hrs, he, hlatches⟩ := ht.lines (walkLcd_initSeq _ _)
  exact ⟨t, ht.runs, ht.completed he, hd, hrs, hpins, ht.errI, by simpa [needsPins] using ht.errN, ht.str, hlatches⟩

/-- Settles O43: the list is `PINS` and then the initialization sequence. -/
theorem initConfiguresPinsThenRunsTheSequence : Obligations.InitConfiguresPinsThenRunsTheSequence := by
  unfold Obligations.InitConfiguresPinsThenRunsTheSequence
  intro s h hr
  have htotal : totalEdges (expand Config.hw .init) = 1 + 14 * Config.hw.nibbleCycles + Config.hw.cyc 21125 := by
    rw [expand, totalEdges_append, totalEdges_initSeq, Nat.add_assoc]
    rfl
  obtain ⟨t, ht⟩ := accepts_performed h (by simp) htotal hr
  obtain ⟨hpins, hd, hrs, he, hlatches⟩ := ht.lines (walkLcd_initSeq (s.cycle + 1) { s.lcdSide with pins := true })
  exact ⟨t, ht.runs, ht.completed he, hd, hrs, hpins, ht.errI, by simpa [needsPins] using ht.errN, ht.str, hlatches⟩

end Sys2Proof.Machine
end

section
/-!
String writes (42_text_output.md R152 to R155): the byte a read returns (20_memory.md R55, R60), one read, one character, the
characters of a string in turn, and the two ends of a string, the terminator and the cap.
-/

namespace Sys2Proof.Machine

/-! The answer of the string memory (R55, R60). -/

theorem answer_of_settled {s : State} (h : ∀ w ∈ s.overwritten, w.1 ≠ s.memAddrQ) :
    s.answer = s.mem.byteAt? s.memAddrQ.toNat := by
  have hnone : s.overwritten.filter (fun w => w.1 == s.memAddrQ) = [] := by simpa [List.filter_eq_nil_iff] using h
  simp [State.answer, State.answers, hnone]

/-- The memory answers with the contents or with a value that was replaced. -/
theorem answer_mem_answers (s : State) : s.answer ∈ s.answers := by
  have hpos : 0 < s.answers.length := by simp [State.answers]
  unfold State.answer
  split
  · next b h => simp [h]
  · have hlt := Nat.mod_lt (Config.raceChoice s.draws) hpos
    rw [List.getElem?_eq_getElem hlt]
    exact List.getElem_mem hlt

theorem memRdata_of_answer {s : State} {b : Byte} (hrd : s.memRdQ = true) (h : s.answer = some b) : s.memRdata = b := by
  simp [State.memRdata, hrd, h]

/-- Settles O48: an answer is one of `State.answers`, of which the contents are the only one where nothing was replaced. -/
theorem stringReadReturnsOldOrNewContents : Obligations.StringReadReturnsOldOrNewContents := by
  unfold Obligations.StringReadReturnsOldOrNewContents
  intro s hrd
  constructor
  · intro hold b hb
    exact memRdata_of_answer hrd ((answer_of_settled hold).trans hb)
  · intro b hb hknown
    have hmem := answer_mem_answers s
    simp only [State.answers, List.mem_cons, List.mem_map, List.mem_filter, beq_iff_eq] at hmem
    obtain h | ⟨⟨addr, old⟩, ⟨hw, rfl⟩, h⟩ := hmem
    · exact .inl (memRdata_of_answer hrd (h.trans hb))
    · obtain ⟨v, rfl⟩ := Option.ne_none_iff_exists'.1 (hknown _ hw rfl)
      rw [memRdata_of_answer hrd h.symm]
      exact .inr hw

/-! A run of a string write that nothing outside disturbs. -/

theorem run_one {s t : State} (h : step s = .next t) : run 1 s = .next t := by
  rw [run_succ, h]
  rfl

/-- No reset and no other agent's write at the next `n` edges. -/
abbrev Quiet (n : Nat) (s : State) : Prop := NoReset n s ∧ NoWrites n s

theorem Quiet.drop {n m : Nat} {s t : State} (h : Quiet (n + m) s) (ht : t.inputs = s.inputs.drop n) : Quiet m t :=
  ⟨forall_take_drop h.1 ht, forall_take_drop h.2 ht⟩

theorem Quiet.left {n m : Nat} {s : State} (h : Quiet (n + m) s) : Quiet n s :=
  ⟨forall_take_le h.1, forall_take_le h.2⟩

/-- What `n` edges of a string write lead to: the latch events `ls`, the reads `rs`, and what they keep. -/
structure Wrote (n : Nat) (ls : List LatchEvent) (rs : List ReadEvent) (s t : State) : Prop where
  runs : run n s = .next t
  inputs : t.inputs = s.inputs.drop n
  cycle : t.cycle = s.cycle + n
  errI : t.errIllegal = s.errIllegal
  errN : t.errNopins = s.errNopins
  op : t.rqOp = s.rqOp
  arg : t.rqArg = s.rqArg
  base : t.strBase = s.strBase
  mem : t.mem = s.mem
  overwritten : t.overwritten = []
  pins : t.pinsCfg = s.pinsCfg
  low : s.eQ = false → t.eQ = false
  latches : t.latches = s.latches ++ ls
  reads : t.reads = s.reads ++ rs

theorem Wrote.refl {s : State} (h : s.overwritten = []) : Wrote 0 [] [] s s :=
  ⟨rfl, rfl, rfl, rfl, rfl, rfl, rfl, rfl, rfl, h, rfl, id, (List.append_nil _).symm, (List.append_nil _).symm⟩

theorem Wrote.trans {n m : Nat} {ls ls' : List LatchEvent} {rs rs' : List ReadEvent} {s t u : State}
    (h : Wrote n ls rs s t) (h' : Wrote m ls' rs' t u) : Wrote (n + m) (ls ++ ls') (rs ++ rs') s u where
  runs := by rw [run_add, h.runs, andThen_next, h'.runs]
  inputs := by rw [h'.inputs, h.inputs, List.drop_drop]
  cycle := by rw [h'.cycle, h.cycle, Nat.add_assoc]
  errI := h'.errI.trans h.errI
  errN := h'.errN.trans h.errN
  op := h'.op.trans h.op
  arg := h'.arg.trans h.arg
  base := h'.base.trans h.base
  mem := h'.mem.trans h.mem
  overwritten := h'.overwritten
  pins := h'.pins.trans h.pins
  low := h'.low ∘ h.low
  latches := by rw [h'.latches, h.latches, List.append_assoc]
  reads := by rw [h'.reads, h.reads, List.append_assoc]

/-- A run without string reads as a part of a string write. -/
theorem Reaches.wrote {n : Nat} {s t : State} {v : LcdSide} {ls : List LatchEvent} (h : Reaches n s t) (hq : NoWrites n s)
    (hold : s.overwritten = []) (hlcd : t.lcdSide = v) (hpins : v.pins = s.pinsCfg) (hlow : s.eQ = false → v.e = false)
    (hlatches : v.latches = s.latches ++ ls) : Wrote n ls [] s t := by
  subst hlcd
  obtain ⟨hbase, -, -, -, -, hreads⟩ := h.moved.str
  obtain ⟨hmem, hold'⟩ := h.moved.mem hq
  exact ⟨h.runs, h.moved.inputs, h.moved.cycle, h.moved.errI, h.moved.errN, h.moved.op, h.moved.arg, hbase, hmem, hold' hold,
    hpins, hlow, hlatches, by simp [hreads]⟩

/-- The string write is about to read byte `i` of the string at `a`, or is over if the cap is reached. -/
structure AtByte (a : Half) (i : Nat) (s : State) : Prop where
  busy : s.busy = !s.seq.isEmpty
  seq : s.seq = if i = 100 then [] else readByte
  base : s.strBase = a
  idx : s.strIdx = i
  overwritten : s.overwritten = []

section
variable {a : Half} {i : Nat} {b : Byte} {s : State}

/-- The issuing edge of the read of byte `i`. -/
theorem wrote_rdIssue (h : AtByte a i s) (hi : i < 100) (hq : Quiet 1 s) : ∃ t, Wrote 1 [] [] s t ∧
    t.busy = true ∧ t.seq = [.rdCap] ∧ t.strIdx = i ∧ t.memAddrQ = stringAddr a i ∧ t.memRdQ = true ∧
    t.lcdSide = s.lcdSide := by
  obtain ⟨hr, hw⟩ := hq
  have hseq : s.seq = [.rdIssue, .rdCap] := h.seq.trans (if_neg hi.ne)
  have hb : s.busy = true := by rw [h.busy, hseq]; rfl
  have hstep := step_rdIssue (noReset_head hr) hb hseq
  obtain ⟨hmem, hold⟩ := agentWrites_silent (noWrites_head hw)
  refine ⟨_, ⟨run_one hstep, ?_, ?_, ?_, ?_, ?_, ?_, ?_, hmem, hold h.overwritten, ?_, ?_, ?_, ?_⟩,
    ?_, rfl, ?_, ?_, rfl, ?_⟩ <;> simp [State.lcdSide, hb, h.idx, h.base]

/-- The capturing edge, of a byte whose contents are known and unchanged. -/
theorem wrote_rdCap (hq : Quiet 1 s) (hb : s.busy = true) (hs : s.seq = [.rdCap]) (hrd : s.memRdQ = true)
    (hold : s.overwritten = []) (hmem : s.mem.byteAt? s.memAddrQ.toNat = some b) :
    ∃ t, Wrote 1 [] [⟨s.memAddrQ, b, s.cycle⟩] s t ∧ t.busy = !t.seq.isEmpty ∧
      t.seq = stringRest Config.hw b s.strIdx ∧ t.strIdx = (if b = 0x00#8 then s.strIdx else s.strIdx + 1) ∧
      t.strByte = b ∧ t.memAddrQ = s.memAddrQ ∧ t.memRdQ = false ∧ t.lcdSide = s.lcdSide := by
  obtain ⟨hr, hw⟩ := hq
  obtain ⟨hmem', hold'⟩ := agentWrites_silent (noWrites_head hw)
  have hbyte : (agentWrites s.edge s).memRdata = b := by
    refine memRdata_of_answer (by simp [hrd]) ((answer_of_settled (by simp [hold' hold])).trans ?_)
    rw [hmem', agentWrites_memAddrQ, hmem]
  have hstep := step_rdCap (noReset_head hr) hb hs
  rw [hbyte] at hstep
  refine ⟨_, ⟨run_one hstep, ?_, ?_, ?_, ?_, ?_, ?_, ?_, ?_, ?_, ?_, ?_, ?_, ?_⟩,
    ?_, ?_, ?_, ?_, ?_, ?_, ?_⟩ <;> simp [State.lcdSide, hb, hrd, hmem', hold' hold]

/-- The two edges of the read of byte `i`. -/
theorem wrote_read (h : AtByte a i s) (hi : i < 100) (hmem : s.mem.byteAt? (stringAddr a i).toNat = some b)
    (hq : Quiet 2 s) : ∃ t, Wrote 2 [] [⟨stringAddr a i, b, s.cycle + 1⟩] s t ∧
      t.busy = !t.seq.isEmpty ∧ t.seq = stringRest Config.hw b i ∧ t.strIdx = (if b = 0x00#8 then i else i + 1) ∧
      t.strByte = b ∧ t.memAddrQ = stringAddr a i ∧ t.memRdQ = false ∧ t.lcdSide = s.lcdSide := by
  obtain ⟨u, hissue, hbu, hsu, hidx, haddr, hrd, hlcd⟩ := wrote_rdIssue h hi (Quiet.left (m := 1) hq)
  obtain ⟨t, hcap, hbt, hst, hidxt, hbyte, haddrt, hrdt, hlcdt⟩ := wrote_rdCap (b := b) (hq.drop hissue.inputs) hbu hsu hrd
    hissue.overwritten (by rw [hissue.mem, haddr, hmem])
  rw [haddr, hissue.cycle] at hcap
  rw [hidx] at hst hidxt
  exact ⟨t, hissue.trans hcap, hbt, hst, hidxt, hbyte, haddrt.trans haddr, hrdt, hlcdt.trans hlcd⟩

/-- The cycle of one character: its read, its two transfers and the settle delay. -/
theorem wrote_char (h : AtByte a i s) (hi : i < 100) (hmem : s.mem.byteAt? (stringAddr a i).toNat = some b)
    (hb : b ≠ 0x00#8) (hq : Quiet Config.hw.charCycles s) :
    ∃ t, Wrote Config.hw.charCycles (byteLatches Config.hw s.pinsCfg true (s.cycle + 1) b)
        [⟨stringAddr a i, b, s.cycle + 1⟩] s t ∧
      AtByte a (i + 1) t ∧ t.strByte = b ∧ t.memAddrQ = stringAddr a i ∧ t.memRdQ = false ∧ t.eQ = false := by
  have hC : Config.hw.charCycles = 2 + totalEdges (chr Config.hw b) := by
    rw [totalEdges_chr, Params.charCycles, Nat.add_assoc]
  rw [hC] at hq ⊢
  obtain ⟨u, hread, hbu, hsu, hidxu, hbyteu, haddru, hrdu, hlcdu⟩ := wrote_read h hi hmem hq.left
  obtain ⟨hr, hw⟩ := hq.drop hread.inputs
  rw [stringRest, if_neg hb, hw_stringCap] at hsu
  obtain ⟨t, hreach, hbt, hst, hlcdt⟩ := reaches_list_end hbu hsu (fixedList_chr b) hr
  have hcycle : u.cycle = s.cycle + 1 + 1 := hread.cycle
  rw [walkLcd_chr, hcycle, latchByte_succ, hlcdu] at hlcdt
  have hpins : u.pinsCfg = s.pinsCfg := hread.pins
  have hsent := hreach.wrote hw hread.overwritten hlcdt hpins.symm (fun _ => rfl)
    (ls := byteLatches Config.hw s.pinsCfg true (s.cycle + 1) b) (by rw [hread.latches, List.append_nil]; rfl)
  obtain ⟨hbase, hidxt, hbytet, haddrt, hrdt, -⟩ := hreach.moved.str
  obtain ⟨-, -, he, -⟩ := registers_of_lcdSide hlcdt
  refine ⟨t, hread.trans hsent, ⟨hbt, hst, ?_, ?_, hsent.overwritten⟩, hbytet.trans hbyteu, haddrt.trans haddru,
    hrdt.trans hrdu, he⟩
  · rw [hbase, hread.base, h.base]
  · rw [hidxt, hidxu, if_neg hb]

end

/-! The characters in turn. -/

theorem wrote_chars {a : Half} {k i : Nat} {bs : List Byte} {s : State} (h : AtByte a i s) (hi : i + bs.length ≤ 100)
    (hnull : 0x00#8 ∉ bs) (hmem : holdsString s.mem a i bs) (hcycle : s.cycle = k + i * Config.hw.charCycles + 1)
    (hq : Quiet (bs.length * Config.hw.charCycles) s) :
    ∃ t, Wrote (bs.length * Config.hw.charCycles) (stringLatches Config.hw s.pinsCfg k i bs)
        (stringReads Config.hw a k i bs) s t ∧ AtByte a (i + bs.length) t := by
  induction bs generalizing i s with
  | nil =>
    rw [List.length_nil, Nat.zero_mul]
    exact ⟨s, .refl h.overwritten, h⟩
  | cons b bs ih =>
    rw [List.length_cons] at hi hq ⊢
    rw [Nat.succ_mul, Nat.add_comm] at hq ⊢
    obtain ⟨hb, hnull'⟩ := not_or.1 (mt List.mem_cons.2 hnull)
    obtain ⟨hbyte, hmem'⟩ := hmem
    obtain ⟨t, hchar, hat, -⟩ := wrote_char h (by omega) hbyte (Ne.symm hb) hq.left
    have hcycle' : t.cycle = k + (i + 1) * Config.hw.charCycles + 1 := by
      rw [hchar.cycle, hcycle, Nat.succ_mul]
      omega
    obtain ⟨u, hchars, hat'⟩ := ih hat (by omega) hnull' (hchar.mem ▸ hmem') hcycle' (hq.drop hchar.inputs)
    rw [hchar.pins] at hchars
    rw [hcycle] at hchar
    exact ⟨u, hchar.trans hchars, by rwa [Nat.add_right_comm, Nat.add_assoc] at hat'⟩

theorem holdsString_append {m : Memory} {a : Half} {i : Nat} {xs ys : List Byte} (h : holdsString m a i (xs ++ ys)) :
    holdsString m a i xs ∧ holdsString m a (i + xs.length) ys := by
  induction xs generalizing i with
  | nil => exact ⟨trivial, h⟩
  | cons x xs ih =>
    obtain ⟨hx, hxs⟩ := h
    obtain ⟨h₁, h₂⟩ := ih hxs
    exact ⟨⟨hx, h₁⟩, by rwa [Nat.add_right_comm, Nat.add_assoc] at h₂⟩

theorem stringReads_append (p : Params) (a : Half) (k i : Nat) (xs ys : List Byte) :
    stringReads p a k i (xs ++ ys) = stringReads p a k i xs ++ stringReads p a k (i + xs.length) ys := by
  induction xs generalizing i with
  | nil => rfl
  | cons x xs ih => simp [stringReads, ih, Nat.add_assoc, Nat.add_comm 1]

theorem stringLatches_append (p : Params) (driven : Bool) (k i : Nat) (xs ys : List Byte) :
    stringLatches p driven k i (xs ++ ys) =
      stringLatches p driven k i xs ++ stringLatches p driven k (i + xs.length) ys := by
  induction xs generalizing i with
  | nil => rfl
  | cons x xs ih => simp [stringLatches, ih, Nat.add_assoc, Nat.add_comm 1]

/-! From the accepting edge to the end of the string. -/

/-- The accepting edge of a string write, which comes to byte 0 with nothing overwritten. -/
theorem accepts_string {s : State} {a : Half} {n : Nat} (h : Accepts s (.writeString a)) (hq : Quiet (1 + n) s) :
    ∃ u, step s = .next (passEdge u) ∧ Started (.writeString a) (agentWrites s.edge s) u ∧ AtByte a 0 (passEdge u) ∧
      u.mem = s.mem ∧ u.pinsCfg = s.pinsCfg ∧ u.eQ = s.eQ ∧ u.cycle = s.cycle ∧ Quiet n (passEdge u) := by
  obtain ⟨u, hstep, hstart⟩ := step_of_accepts h
  obtain ⟨-, hidle, -, -⟩ := h
  obtain ⟨hbase, hidx⟩ := hstart.string a rfl
  have hsilent := agentWrites_of_none s.edge s (noWrites_head (n := 0) hq.left.2)
  have hlcd := hstart.lcd.trans (agentWrites_lcdSide _ _)
  refine ⟨u, hstep, hstart, ⟨?_, hstart.seq, hbase, hidx, ?_⟩, ?_, congrArg LcdSide.pins hlcd, congrArg LcdSide.e hlcd,
    hstart.cycle.trans (agentWrites_cycle _ _), hq.drop ?_⟩
  · simp [hstart.busy, hstart.seq, expand]
  · rw [passEdge_overwritten, hstart.overwritten, hsilent, hidle]
    rfl
  · rw [hstart.mem, hsilent]
  · simp [hstart.inputs]

/-- What the whole string write leaves, in the terms of the accepting state. -/
theorem string_completed {s u t : State} {a : Half} {n : Nat} {ls : List LatchEvent} {rs : List ReadEvent}
    (hstep : step s = .next (passEdge u)) (hstart : Started (.writeString a) (agentWrites s.edge s) u) (hmem : u.mem = s.mem)
    (h : Wrote n ls rs (passEdge u) t) (hb : t.busy = false) (hs : t.seq = []) (he : t.eQ = false) :
    run (1 + n) s = .next t ∧ Completed s t (.writeString a) (1 + n) ∧ t.strBase = a ∧ t.mem = s.mem ∧
      t.pinsCfg = s.pinsCfg ∧ t.errIllegal = s.errIllegal ∧ t.errNopins = (s.errNopins || !s.pinsCfg) ∧
      t.latches = s.latches ++ ls ∧ t.reads = s.reads ++ rs := by
  obtain ⟨-, -, -, hlatches⟩ := registers_of_lcdSide hstart.lcd
  have hpins : u.pinsCfg = s.pinsCfg := (congrArg LcdSide.pins hstart.lcd).trans (agentWrites_pinsCfg _ _)
  refine ⟨by rw [run_add, run_one hstep]; exact h.runs, ⟨hb, hs, he, h.op.trans hstart.op, h.arg.trans hstart.arg, ?_, ?_⟩,
    h.base.trans (hstart.string a rfl).1, h.mem.trans hmem, h.pins.trans hpins, ?_, ?_, ?_, ?_⟩
  · rw [h.cycle, passEdge_cycle, hstart.cycle, agentWrites_cycle, Nat.add_assoc]
  · rw [h.inputs, passEdge_inputs, hstart.inputs, agentWrites_inputs, ← List.drop_one, List.drop_drop]
  · rw [h.errI, passEdge_errIllegal, hstart.errI, agentWrites_errIllegal]
  · rw [h.errN, passEdge_errNopins, hstart.errN, agentWrites_errNopins, agentWrites_pinsCfg, needsPins, Bool.true_and]
  · rw [h.latches, passEdge_latches, hlatches, lcdSide_latches, agentWrites_latches]
  · rw [h.reads, passEdge_reads, hstart.reads, agentWrites_reads]

/-- Settles O44: the characters in turn, and then the read of the terminator, with nothing behind it. -/
theorem writeStringStopsAtTheTerminator : Obligations.WriteStringStopsAtTheTerminator := by
  unfold Obligations.WriteStringStopsAtTheTerminator
  intro s a bs hi h hlen hnull hmem hr hw
  obtain ⟨u, hstep, hstart, hat, humem, hpins, hlow, hcycle, hq⟩ := accepts_string h ⟨hr, hw⟩
  obtain ⟨hchars, hnul, -⟩ := holdsString_append hmem
  obtain ⟨t₁, hwrote, hat₁⟩ := wrote_chars (k := s.cycle) hat (by omega) hnull (humem.symm ▸ hchars)
    (by rw [passEdge_cycle, hcycle, Nat.zero_mul, Nat.add_zero]) hq.left
  rw [Nat.zero_add] at hnul hat₁
  obtain ⟨t, hread, hb, hseq, hidx, hbyte, haddr, hrd, -⟩ := wrote_read (b := 0x00#8) hat₁ hlen
    (by rw [hwrote.mem]; exact humem ▸ hnul) (hq.drop hwrote.inputs)
  have hall := hwrote.trans hread
  have hseq' : t.seq = [] := hseq
  obtain ⟨-, hidle, -, -⟩ := h
  have he : t.eQ = false := hall.low (hlow.trans (hi.eQ_of_idle hidle))
  obtain ⟨hrun, hdone, hbase, hmem', hpins', herrI, herrN, hlatches, hreads⟩ :=
    string_completed hstep hstart humem hall (by simp [hb, hseq']) hseq' he
  have hlast : t₁.cycle + 1 = s.cycle + bs.length * Config.hw.charCycles + 2 := by
    rw [hwrote.cycle, passEdge_cycle, hcycle]
    omega
  refine ⟨t, hrun, hdone, hbase, hidx, hbyte, haddr, hrd, hmem', hpins', herrI, herrN, ?_, ?_⟩
  · rw [hlatches, List.append_nil, passEdge_pinsCfg, hpins]
  · rw [hreads, stringReads_append, hlast, Nat.zero_add]
    rfl

/-- Settles O45: 99 characters in turn, and then the character after which the cap ends the operation. -/
theorem writeStringStopsAtTheCap : Obligations.WriteStringStopsAtTheCap := by
  unfold Obligations.WriteStringStopsAtTheCap
  intro s a bs h hlen hnull hmem hr hw
  obtain ⟨xs, b, rfl⟩ : ∃ xs b, bs = xs ++ [b] := by
    obtain rfl | hbs := List.eq_nil_or_concat' bs
    · simp at hlen
    · exact hbs
  have hxs : xs.length = 99 := by simpa using hlen
  obtain ⟨hnullx, hnullb⟩ := not_or.1 (mt List.mem_append.2 hnull)
  have hC : 100 * Config.hw.charCycles = xs.length * Config.hw.charCycles + Config.hw.charCycles := by rw [hxs]; omega
  rw [hC] at hr hw ⊢
  obtain ⟨u, hstep, hstart, hat, humem, hpins, -, hcycle, hq⟩ := accepts_string h ⟨hr, hw⟩
  obtain ⟨hchars, hbyte, -⟩ := holdsString_append hmem
  obtain ⟨t₁, hwrote, hat₁⟩ := wrote_chars (k := s.cycle) hat (by omega) hnullx (humem.symm ▸ hchars)
    (by rw [passEdge_cycle, hcycle, Nat.zero_mul, Nat.add_zero]) hq.left
  rw [Nat.zero_add] at hbyte hat₁
  obtain ⟨t, hchar, hend, hbyte', haddr, hrd, he⟩ := wrote_char (b := b) hat₁ (by omega)
    (by rw [hwrote.mem]; exact humem ▸ hbyte) (fun hb => hnullb (List.mem_singleton.2 hb.symm)) (hq.drop hwrote.inputs)
  have hseq : t.seq = [] := by rw [hend.seq, if_pos (by omega)]
  obtain ⟨hrun, hdone, hbase, hmem', hpins', herrI, herrN, hlatches, hreads⟩ :=
    string_completed hstep hstart humem (hwrote.trans hchar) (by simp [hend.busy, hseq]) hseq he
  have hlast : t₁.cycle + 1 = s.cycle + xs.length * Config.hw.charCycles + 2 := by
    rw [hwrote.cycle, passEdge_cycle, hcycle]
    omega
  refine ⟨t, hrun, hdone, hbase, by rw [hend.idx, hxs], by simp [hbyte'], by rw [haddr, hxs], hrd, hmem', hpins', herrI,
    herrN, ?_, ?_⟩
  · rw [hlatches, stringLatches_append, hwrote.pins, passEdge_pinsCfg, hpins, hlast, Nat.zero_add, stringLatches,
      stringLatches, List.append_nil]
  · rw [hreads, stringReads_append, hlast, Nat.zero_add]
    rfl

end Sys2Proof.Machine
end

section
/-!
The outputs (10_state.md R33, R34; 60_exceptions.md R217, R218) and the run of a host that keeps the boot order
(70_reset_and_hazards.md R234, R245).
-/

namespace Sys2Proof.Machine

/-! The status vector. -/

/-- The bits of the status vector and the test of its error bits, for the sixteen values of the four registers. -/
theorem bits_of_status : ∀ n i p b : Bool,
    let w : Byte := 0#4 ++ BitVec.ofBool n ++ BitVec.ofBool i ++ BitVec.ofBool p ++ BitVec.ofBool b
    w.getLsbD 0 = b ∧ w.getLsbD 1 = p ∧ w.getLsbD 2 = i ∧ w.getLsbD 3 = n ∧ w.extractLsb' 4 4 = 0#4 ∧
      (w.extractLsb' 2 2 = 0#2 ↔ i = false ∧ n = false) := by
  decide

theorem noError_iff (s : State) : s.noError = true ↔ s.errIllegal = false ∧ s.errNopins = false := by
  obtain ⟨-, -, -, -, -, herr⟩ := bits_of_status s.errNopins s.errIllegal s.pinsCfg s.busy
  rw [State.noError, beq_iff_eq]
  exact herr

/-- Settles O50, by `bits_of_status`. -/
theorem statusVectorBits : Obligations.StatusVectorBits := by
  unfold Obligations.StatusVectorBits
  intro s
  obtain ⟨h0, h1, h2, h3, h4, -⟩ := bits_of_status s.errNopins s.errIllegal s.pinsCfg s.busy
  exact ⟨h0, h1, h2, h3, h4, rfl, noError_iff s⟩

/-! The port view. -/

theorem getLsbD_one_shift : ∀ i j : Fin 8, (1#8 <<< i.val).getLsbD j = decide (j = i) := by
  decide

theorem getLsbD_setPortBit (i j : Fin 8) (b : Bool) (port : Byte) :
    (setPortBit i b port).getLsbD j = if j = i then b else port.getLsbD j := by
  have hone := getLsbD_one_shift i j
  rw [setPortBit, BitVec.getLsbD_or, BitVec.getLsbD_and, BitVec.getLsbD_not, hone, decide_eq_true j.isLt, Bool.true_and]
  by_cases hj : j = i
  · cases b <;> simp [hj]
  · cases b <;> simp [hj, hone, -BitVec.getLsbD_eq_getElem]

theorem getLsbD_hi_append (port : Byte) (d : Nibble) (i : Fin 8) :
    (hi port ++ d).getLsbD i = if i.val < 4 then d.getLsbD i else port.getLsbD i := by
  rw [BitVec.getLsbD_append]
  by_cases hi4 : i.val < 4
  · rw [if_pos hi4, if_pos hi4]
  · rw [if_neg hi4, if_neg hi4, hi, BitVec.getLsbD_extractLsb', decide_eq_true (by omega), Bool.true_and,
      Nat.add_sub_cancel' (by omega)]

/-- Settles O51: `setPortBit` for the two control bits, and the data nibble below the kept high nibble. -/
theorem portViewOwnsSixBits : Obligations.PortViewOwnsSixBits := by
  unfold Obligations.PortViewOwnsSixBits
  intro s port i
  refine ⟨?_, ?_, getLsbD_hi_append port s.dQ i, ?_, hw_rsBit_ne_eBit⟩
  · rw [State.controlOut, getLsbD_setPortBit, getLsbD_setPortBit]
  · rw [State.controlDir, getLsbD_setPortBit, getLsbD_setPortBit]
  · rw [State.dataDir, getLsbD_hi_append]
    by_cases hi4 : i.val < 4
    · rw [if_pos hi4, if_pos hi4]
      cases s.pinsCfg
      · exact BitVec.getLsbD_zero
      · exact (BitVec.getLsbD_allOnes (v := 4)).trans (decide_eq_true hi4)
    · rw [if_neg hi4, if_neg hi4]

/-! The boot order (R234). -/

/-- The state of a host's run that has recorded no error; if `pins`, a pin configuration has run or is about to. -/
structure Booted (pins : Bool) (s : State) : Prop where
  inv : s.Inv
  errI : s.errIllegal = false
  errN : s.errNopins = false
  pins : pins = true → s.pinsCfg = true ∨ s.busy = true ∧ s.seq.head? = some .pins

theorem Booted.withInputs {pins : Bool} {s : State} (h : Booted pins s) (es : List Edge) :
    Booted pins { s with inputs := es } :=
  ⟨h.inv, h.errI, h.errN, h.pins⟩

theorem Booted.pinsCfg_of_idle {pins : Bool} {s : State} (h : Booted pins s) (hb : s.busy = false) (hp : pins = true) :
    s.pinsCfg = true :=
  (h.pins hp).resolve_right (by simp [hb])

/-- An edge with `rst = 0` that accepts no request. -/
theorem Booted.of_step {pins : Bool} {s t : State} (h : Booted pins s) (hr : s.edge.rst = false)
    (hq : s.busy = true ∨ s.edge.reqValid = false) (hstep : step s = .next t) : Booted pins t := by
  have herr : t.errIllegal = s.errIllegal ∧ t.errNopins = s.errNopins :=
    (step_errors hstep hr).resolve_right fun ⟨hb, hv, _⟩ => by simp [hb, hv] at hq
  obtain ⟨hpins, -⟩ := lineRegistersHaveOneWriterEach s t hstep hr
  refine ⟨everyEdgeKeepsTheInvariant s t h.inv hstep, herr.1.trans h.errI, herr.2.trans h.errN, fun hp => .inl ?_⟩
  obtain hcfg | ⟨hb, hhead⟩ := h.pins hp
  · simp [hpins, hcfg]
  · simp [hpins, hb, hhead]

/-- What the boot order says of its first request. -/
theorem bootOrder_cons {pins inited : Bool} {i : Instr} {is : List Instr} (h : bootOrder pins inited (i :: is) = true) :
    (needsPins i = true → pins = true) ∧ ∃ inited', bootOrder (pins || !needsPins i) inited' is = true := by
  cases i with
  | initPins => exact ⟨by simp [needsPins], inited, by simpa [needsPins, bootOrder] using h⟩
  | init => exact ⟨by simp [needsPins], true, by simpa [needsPins, bootOrder] using h⟩
  | initProcedure =>
    obtain ⟨rfl, hrest⟩ := Bool.and_eq_true_iff.1 h
    exact ⟨fun _ => rfl, true, hrest⟩
  | sendNibble | sendCmd4 | sendCmd8 =>
    obtain ⟨rfl, hrest⟩ := Bool.and_eq_true_iff.1 h
    exact ⟨fun _ => rfl, inited, hrest⟩
  | writeChar | writeString | moveCursor =>
    obtain ⟨hboth, hrest⟩ := Bool.and_eq_true_iff.1 h
    obtain ⟨rfl, rfl⟩ := Bool.and_eq_true_iff.1 hboth
    exact ⟨fun _ => rfl, true, hrest⟩

/-- A request that needs no pins begins by configuring them. -/
theorem head_expand_of_not_needsPins {i : Instr} (h : needsPins i = false) :
    (expand Config.hw i).head? = some .pins := by
  cases i <;> simp_all [needsPins, expand]

/-- An edge that accepts a request in the boot order. -/
theorem Booted.of_accepts {pins inited : Bool} {i : Instr} {is : List Instr} {s : State} (h : Booted pins s) (hacc : Accepts s i)
    (hboot : bootOrder pins inited (i :: is) = true) :
    ∃ t inited', step s = .next t ∧ Booted (pins || !needsPins i) t ∧
      bootOrder (pins || !needsPins i) inited' is = true := by
  obtain ⟨u, hstep, hstart⟩ := step_of_accepts hacc
  obtain ⟨-, hidle, -, -⟩ := hacc
  obtain ⟨hneeds, inited', hboot'⟩ := bootOrder_cons hboot
  refine ⟨_, inited', hstep, ⟨everyEdgeKeepsTheInvariant s _ h.inv hstep, ?_, ?_, fun hp => ?_⟩, hboot'⟩
  · rw [passEdge_errIllegal, hstart.errI, agentWrites_errIllegal, h.errI]
  · rw [passEdge_errNopins, hstart.errN, agentWrites_errNopins, agentWrites_pinsCfg, h.errN, Bool.false_or,
      Bool.and_eq_false_imp]
    exact fun hn => by simp [h.pinsCfg_of_idle hidle (hneeds hn)]
  · cases hn : needsPins i with
    | true =>
      have hcfg : u.pinsCfg = s.pinsCfg := (congrArg LcdSide.pins hstart.lcd).trans (agentWrites_pinsCfg _ _)
      exact .inl (hcfg.trans (h.pinsCfg_of_idle hidle (hneeds hn)))
    | false => exact .inr ⟨hstart.busy, hstart.seq ▸ head_expand_of_not_needsPins hn⟩

theorem serve_booted {k : Nat} {pins inited : Bool} {is : List Instr} {s : State} (h : Booted pins s)
    (hboot : bootOrder pins inited is = true) :
    ∃ t pins', serve k (is.map encode) s = .next t ∧ Booted pins' t := by
  induction k generalizing pins inited is s with
  | zero => exact ⟨s, pins, rfl, h⟩
  | succ k ih =>
    cases is with
    | nil =>
      have h' := h.withInputs []
      obtain ⟨t, hstep⟩ := noEdgeStopsTheMachine _ h'.inv
      rw [List.map_nil, serve, hstep, andThen_next]
      exact ih (h'.of_step rfl (.inr rfl) hstep) hboot
    | cons i is =>
      have h' := h.withInputs [{ rst := false, reqValid := true, reqWord := encode i, memWrites := [] }]
      rw [List.map_cons, serve]
      by_cases hb : s.busy = true
      · obtain ⟨t, hstep⟩ := noEdgeStopsTheMachine _ h'.inv
        rw [hstep, andThen_next, if_pos hb]
        exact ih (h'.of_step rfl (.inl hb) hstep) hboot
      · obtain ⟨t, inited', hstep, ht, hboot'⟩ :=
          h'.of_accepts ⟨rfl, Bool.eq_false_of_not_eq_true hb, rfl, decodeOfEncodeIsTheRequest i⟩ hboot
        rw [hstep, andThen_next, if_neg hb]
        exact ih ht hboot'

/-- Settles O52: after reset nothing is configured and no error recorded, and `Booted` holds along the run. -/
theorem bootOrderRunRecordsNoError : Obligations.BootOrderRunRecordsNoError := by
  unfold Obligations.BootOrderRunRecordsNoError
  intro is hboot k
  have hreset : Booted false State.reset := ⟨resetMeetsTheInvariant, rfl, rfl, by simp⟩
  obtain ⟨t, pins, hserve, ht⟩ := serve_booted (k := k) hreset hboot
  exact ⟨t, hserve, ht.errI, ht.errN, (noError_iff t).2 ⟨ht.errI, ht.errN⟩⟩

end Sys2Proof.Machine
end
